-- ==== Sys2Proof/Word.lean ====
section
/-! DEFINITION. The word types of the PDM edge detector and bit classifier: only what the spec treats as bits is a bit
vector (10_state.md R10). Thresholds are `Int`, word value and word count are `Nat` (R19, R29). -/

namespace Sys2Proof

/-- A sample index, a sample count, or a configuration value: 64 bits, unsigned (00_scope.md section 4, `IDX_WIDTH`,
`SR_WIDTH`, `CFG_DATA_WIDTH`). -/
abbrev Word := BitVec 64

/-- One line level, one decided bit, or one 1-bit register. -/
abbrev Bit := BitVec 1

/-- One stimulus word (30_encoding.md R55): `op` in bits 71..68, `sel` in bits 67..64, `data` in bits 63..0. -/
abbrev Stimulus := BitVec 72

end Sys2Proof
end

