-- ==== Sys2Proof/Syntax.lean ====
section
/-! DEFINITION. The instructions: one constructor per row of spec/opcode_table.json. The first nine are the stimuli the
host issues (30_encoding.md R56); the last nine are the internal operations the stimuli run, which have no encoding
(30_encoding.md section 3). DESIGN CHOICE, log entry 5: an internal operation is an instruction too. -/

namespace Sys2Proof

/-- A row of the opcode table with its operands. A `cfgw` carries its whole 64-bit data field, as the stimulus word
does (30_encoding.md R57); whether the value is in the register's range is `Instr.wellFormed`'s question. -/
inductive Instr where
  /-- `cfgw pol, value` (R80, R13). -/
  | cfgwPol (value : Word)
  /-- `cfgw end, value` (R80, R14). -/
  | cfgwEnd (value : Word)
  /-- `cfgw zt, value` (R80, R15). -/
  | cfgwZt (value : Word)
  /-- `cfgw ot, value` (R80, R16). -/
  | cfgwOt (value : Word)
  /-- `cfgw tol, value` (R80, R17). -/
  | cfgwTol (value : Word)
  /-- `cfgw sr, value` (R80, R18). -/
  | cfgwSr (value : Word)
  /-- `start` (R81). -/
  | start
  /-- `edge index, level` (R100): `level` is the raw level, before polarity correction. -/
  | edge (index : Word) (level : Bit)
  /-- `eos` (R112). -/
  | eos
  /-- THRESH, a part of `start` (R82). -/
  | thresh
  /-- INIT(s, lvl), the part of `edge` that runs at the first report of a run (R102). -/
  | init (now : Word) (lvl : Bit)
  /-- RISE(s), the part of `edge` that runs at a rising edge (R105). -/
  | rise (now : Word)
  /-- FALL(s), the part of `edge` that runs at a falling edge (R104). -/
  | fall (now : Word)
  /-- CLASSIFY_LOW(s), the last statement of RISE (R120). -/
  | classifyLow (now : Word)
  /-- CLASSIFY_HIGH(s), the last statement of FALL (R125). -/
  | classifyHigh (now : Word)
  /-- PUSH_BIT(b, s), called by CLASSIFY_LOW (R140). -/
  | pushBit (b : Bit) (now : Word)
  /-- ACC_RESET(s), called by CLASSIFY_HIGH at a leadin (R145). -/
  | accReset (now : Word)
  /-- EMIT_WORD(s), called by CLASSIFY_HIGH at a leadout (R146). -/
  | emitWord (now : Word)
  deriving DecidableEq, Repr

/-- Why a stimulus word is reserved (30_encoding.md R61, R62): the name under which the decoder rejects it. -/
inductive Reserved where
  /-- `op` is 0 or 5 to 15 (R61). -/
  | operation
  /-- `op = 1` and `sel` is 6 to 15 (R61). -/
  | register
  /-- A `cfgw` value outside the register's range: `POL`, `END` above 1, `TOL` above 100 (R62). -/
  | value
  /-- `start` or `eos` with a `sel` or `data` that is not 0 (R61). -/
  | operand
  /-- `edge` with `sel[3:1]` not 0 (R61). -/
  | selector
  deriving DecidableEq, Repr

end Sys2Proof
end

