-- ==== Sys2Proof/WellFormed.lean ====
section
/-! DEFINITION. Which instructions are well formed: the value ranges of 30_encoding.md R62, and which of them a host can
issue (30_encoding.md section 3). -/

namespace Sys2Proof

/-- The largest legal tolerance, `TOL_MAX` (00_scope.md section 4, 10_state.md R17). -/
def tolMax : Nat := 100

/-- The operand is in the range its register takes (30_encoding.md R57, R62). Only the three narrow configuration
registers restrict anything; every other operand fills its field. -/
def Instr.wellFormed : Instr → Bool
  | .cfgwPol v => decide (v.toNat ≤ 1)
  | .cfgwEnd v => decide (v.toNat ≤ 1)
  | .cfgwTol v => decide (v.toNat ≤ tolMax)
  | .cfgwZt _ => true
  | .cfgwOt _ => true
  | .cfgwSr _ => true
  | .start => true
  | .edge _ _ => true
  | .eos => true
  | .thresh => true
  | .init _ _ => true
  | .rise _ => true
  | .fall _ => true
  | .classifyLow _ => true
  | .classifyHigh _ => true
  | .pushBit _ _ => true
  | .accReset _ => true
  | .emitWord _ => true

/-- The instruction is a stimulus, which the host can issue; the nine internal operations are not, and have no encoding
(30_encoding.md section 3). -/
def Instr.isStimulus : Instr → Bool
  | .cfgwPol _ => true
  | .cfgwEnd _ => true
  | .cfgwZt _ => true
  | .cfgwOt _ => true
  | .cfgwTol _ => true
  | .cfgwSr _ => true
  | .start => true
  | .edge _ _ => true
  | .eos => true
  | .thresh => false
  | .init _ _ => false
  | .rise _ => false
  | .fall _ => false
  | .classifyLow _ => false
  | .classifyHigh _ => false
  | .pushBit _ _ => false
  | .accReset _ => false
  | .emitWord _ => false

end Sys2Proof
end

