-- ==== Sys2Proof/Decode.lean ====
section
/-! DEFINITION. The stimulus word (30_encoding.md R55 to R63): field extraction, the total decoder, which rejects each
reserved word by name, the encoder, and the decoder as the host asks for it. -/

namespace Sys2Proof

/-- `op = S[71:68]` (R55). -/
def opField (w : Stimulus) : BitVec 4 := w.extractLsb' 68 4

/-- `sel = S[67:64]` (R55). -/
def selField (w : Stimulus) : BitVec 4 := w.extractLsb' 64 4

/-- `data = S[63:0]` (R55). -/
def dataField (w : Stimulus) : Word := w.extractLsb' 0 64

/-- The stimulus word with these three fields (R55). -/
def stimulusWord (op sel : BitVec 4) (data : Word) : Stimulus := op ++ sel ++ data

/-- `i` when its operand is in range, else the rejection of 30_encoding.md R62. -/
def checkedValue (i : Instr) : Except Reserved Instr :=
  if i.wellFormed then .ok i else .error .value

/-- A `cfgw` word: `sel` is the register number, 6 to 15 are reserved (R57, R61, R62). -/
def decodeCfgw (sel : BitVec 4) (data : Word) : Except Reserved Instr :=
  if sel = 0 then checkedValue (.cfgwPol data)
  else if sel = 1 then checkedValue (.cfgwEnd data)
  else if sel = 2 then .ok (.cfgwZt data)
  else if sel = 3 then .ok (.cfgwOt data)
  else if sel = 4 then checkedValue (.cfgwTol data)
  else if sel = 5 then .ok (.cfgwSr data)
  else .error .register

/-- A word with no operand: `sel` and `data` must be 0 (R58, R60, R61). -/
def decodeBare (i : Instr) (sel : BitVec 4) (data : Word) : Except Reserved Instr :=
  if sel = 0 ∧ data = 0 then .ok i else .error .operand

/-- An `edge` word: `sel[0]` is the raw level, `sel[3:1]` must be 0, `data` is the sample index (R59, R61). -/
def decodeEdge (sel : BitVec 4) (data : Word) : Except Reserved Instr :=
  if sel.extractLsb' 1 3 = 0 then .ok (.edge data (sel.extractLsb' 0 1)) else .error .selector

/-- The decoder: every 72-bit word is a stimulus or is rejected by name, without reading the core's state (R56, R63). -/
def decode (w : Stimulus) : Except Reserved Instr :=
  if opField w = 1 then decodeCfgw (selField w) (dataField w)
  else if opField w = 2 then decodeBare .start (selField w) (dataField w)
  else if opField w = 3 then decodeEdge (selField w) (dataField w)
  else if opField w = 4 then decodeBare .eos (selField w) (dataField w)
  else .error .operation

/-- The encoder, from the operation map of R56 to R60. An internal operation has no encoding (30_encoding.md
section 3). -/
def encode : Instr → Option Stimulus
  | .cfgwPol v => some (stimulusWord 1 0 v)
  | .cfgwEnd v => some (stimulusWord 1 1 v)
  | .cfgwZt v => some (stimulusWord 1 2 v)
  | .cfgwOt v => some (stimulusWord 1 3 v)
  | .cfgwTol v => some (stimulusWord 1 4 v)
  | .cfgwSr v => some (stimulusWord 1 5 v)
  | .start => some (stimulusWord 2 0 0)
  | .edge index level => some (stimulusWord 3 (level.zeroExtend 4) index)
  | .eos => some (stimulusWord 4 0 0)
  | .thresh => none
  | .init _ _ => none
  | .rise _ => none
  | .fall _ => none
  | .classifyLow _ => none
  | .classifyHigh _ => none
  | .pushBit _ _ => none
  | .accReset _ => none
  | .emitWord _ => none

/-- The stimulus whose low `nbits` bits are `w` and whose other bits are 0. A stimulus is one 72-bit word and is not
made of bytes or of several words (R43, R55), so the table's numbering is the word's own. DEDUCED, log
entry 9. -/
def tableWord (nbits w : Nat) : Stimulus := BitVec.ofNat 72 (w % 2 ^ nbits)

/-- The instruction the decoder reads from a stimulus numbered as spec/opcode_table.json numbers it. -/
def decodeTableWord (nbits w : Nat) : Option Instr :=
  match decode (tableWord nbits w) with
  | .ok i => some i
  | .error _ => none

end Sys2Proof
end

