-- ==== Sys2Proof/Config.lean ====
section
/-! DEFINITION. What an implementation fixes: the two parameters 00_scope.md section 4 leaves OPEN. The core draws no
value and has no free value (00_scope.md R3, 93_implementation_defined.md). -/

namespace Sys2Proof.Config

/-- The OPEN parameters of 00_scope.md section 4. `none` is unbounded, the normative value of both. -/
structure Params where
  /-- `WORD_WIDTH`: the width of the word accumulator (43_word_accumulator.md R153, 92_eei_decisions.md D25). -/
  wordWidth : Option Nat
  /-- `THR_WIDTH`: the width of `ZERO_SAMPLES` and `ONE_SAMPLES` (40_thresholds_and_configuration.md R88, D3). -/
  thrWidth : Option Nat
  deriving DecidableEq, Repr

/-- The normative core: both widths unbounded. This is the machine `exec` and `step` run.
DESIGN CHOICE, log entry 6. -/
def normative : Params := { wordWidth := none, thrWidth := none }

end Sys2Proof.Config
end

