-- ==== Sys2Proof/Machine/State.lean ====
section
/-! DEFINITION. The architectural state (10_state.md R10), the events (30_encoding.md R64), the inputs, the reasons a step
stops, and the state right after hardware reset (70_reset_and_hazards.md R181, R182). -/

namespace Sys2Proof.Machine

/-- The run phase, `PHASE` (10_state.md R20). Codes 5 to 7 never occur (93_implementation_defined.md S6), so the type has
five values; `Phase.code` gives the register's number. -/
inductive Phase where
  /-- 0: after hardware reset, no run yet. -/
  | idle
  /-- 1: a `start` was accepted, the first edge report has not arrived. -/
  | armed
  /-- 2: edge reports are being classified. -/
  | running
  /-- 3: an `eos` ended the run. -/
  | stopped
  /-- 4: a `start` raised ConfigurationError. -/
  | error
  deriving DecidableEq, Repr

/-- The kind of an event (30_encoding.md R64, R65). -/
inductive EventKind where
  /-- 0: one decided bit. -/
  | bit
  /-- 1: a leadin or a leadout. -/
  | leader
  /-- 2: one completed nibble. -/
  | hex
  /-- 3: the accumulated word. -/
  | word
  deriving DecidableEq, Repr

/-- One event record on the output port (30_encoding.md R64, R66). -/
structure Event where
  /-- `kind`. -/
  kind : EventKind
  /-- `start_sample`. -/
  startSample : Word
  /-- `end_sample`. -/
  endSample : Word
  /-- `payload`: the bit, the leader code (0 leadin, 1 leadout), the nibble, or the word (R66). -/
  payload : Nat
  deriving DecidableEq, Repr

/-- One thing the host does to the core. Reset is not a stimulus and has no encoding (70_reset_and_hazards.md R180). -/
inductive Input where
  /-- A 72-bit stimulus word, reserved or not. -/
  | stimulus (w : Stimulus)
  /-- The reset input is asserted between two stimuli. DEDUCED, log entry 8. -/
  | reset
  deriving DecidableEq, Repr

/-- Why the machine stops with a fault. -/
inductive Fault where
  /-- Raised by PUSH_BIT, and so by RISE and `edge`, on a core with a finite `WORD_WIDTH` when a push would make
  `word_count` exceed it (43_word_accumulator.md R153, 93_implementation_defined.md U8). The normative core, the one
  `exec` runs, has no limit and never raises it. Safe: the spec gives no state after that push. -/
  | wordOverflow
  deriving DecidableEq, Repr

/-- Why a step has no meaning. -/
inductive Refusal where
  /-- An instruction of the table whose meaning is not written yet. No arm answers with it now. Safe. -/
  | notModelled (mnemonic : String)
  /-- A reserved stimulus word or value, raised by the decoder and by a `cfgw` given an ill-formed value. A model
  refuses it (30_encoding.md R61, R62). DEDUCED, log entry 3. Safe. -/
  | reserved (why : Reserved)
  /-- An `edge` in RUNNING that changes the level has an index below `lastpos`, or a width would be negative: the host
  broke its sample-order duty, and a model refuses the run (41_edge_tracker.md R108,
  93_implementation_defined.md S3, S4). Raised by `edge`, RISE and FALL. DESIGN CHOICE, log entry 4.
  Safe. -/
  | sampleOrder
  /-- A `start` on a core with a finite `THR_WIDTH` computes a threshold that does not fit
  (40_thresholds_and_configuration.md R88, 93_implementation_defined.md S5). Raised by `start` and THRESH; never by the
  normative core. Safe. -/
  | thresholdWidth
  deriving DecidableEq, Repr

/-- The state of the core: the registers of 10_state.md R10, and two fields that are the model's and not the core's,
`out` (R30) and `inbox` (R11, R30). The core has no memory (20_memory.md R40). -/
structure State where
  /-- `POL`, `cfg[0]`: 0 ActiveHigh, 1 ActiveLow (R13). -/
  pol : Bit
  /-- `END`, `cfg[1]`: 0 little, 1 big (R14). -/
  endian : Bit
  /-- `ZT`, `cfg[2]`: microseconds (R15). -/
  zt : Word
  /-- `OT`, `cfg[3]`: microseconds (R16). -/
  ot : Word
  /-- `TOL`, `cfg[4]`: 7 bits, percent, 0 to 100 (R17). -/
  tol : BitVec 7
  /-- `SR`, `cfg[5]`: hertz, 0 is unknown (R18). -/
  sr : Word
  /-- `ZS`, `ZERO_SAMPLES` (R19). -/
  zs : Int
  /-- `OS`, `ONE_SAMPLES`, which may be -1 (R19). -/
  os : Int
  /-- `PHASE` (R20). -/
  phase : Phase
  /-- `ERR`: 0 no error, 1 ConfigurationError (R21). -/
  err : Bit
  /-- `oldpin`: the corrected level of the last report that changed state (R23). -/
  oldpin : Bit
  /-- `lastpos` (R25). -/
  lastpos : Word
  /-- `falling` (R24). -/
  falling : Word
  /-- `lastfalling` (R24). -/
  lastfalling : Word
  /-- `rising` (R24). -/
  rising : Word
  /-- `lastrising` (R24). -/
  lastrising : Word
  /-- `highwidth` (R26). -/
  highwidth : Word
  /-- `lowwidth` (R26). -/
  lowwidth : Word
  /-- `nib_value`, 4 bits (R28). -/
  nibValue : BitVec 4
  /-- `nib_count`, 0 to 3 (R28). -/
  nibCount : BitVec 2
  /-- `nib_start` (R28). -/
  nibStart : Word
  /-- `word_value`, unbounded (R29). -/
  wordValue : Nat
  /-- `word_count`, unbounded (R29). -/
  wordCount : Nat
  /-- `word_start` (R29). -/
  wordStart : Word
  /-- `OUT`: every event emitted since the last accepted `start` or reset, oldest first. The model's record, read by no
  rule (R30, R32). DESIGN CHOICE, log entry 2. -/
  out : List Event
  /-- The host's stimulus sequence that the core has not consumed yet, next first. Not state of the core: the host owns
  it (R11, R30). The model's own field, so that `step` has a stimulus to take. DESIGN CHOICE, log
  entry 1. -/
  inbox : List Input
  deriving DecidableEq, Repr

/-- What a step, or an operation inside one, answers. -/
abbrev Result := Host.Outcome State Fault Refusal

/-- The state right after hardware reset (R181, R182): the documented defaults in the configuration registers, every
other register 0, `PHASE = IDLE`, `OUT` empty, and no stimulus offered. -/
def State.reset : State where
  pol := 1
  endian := 0
  zt := 400
  ot := 800
  tol := 20
  sr := 0
  zs := 0
  os := 0
  phase := .idle
  err := 0
  oldpin := 0
  lastpos := 0
  falling := 0
  lastfalling := 0
  rising := 0
  lastrising := 0
  highwidth := 0
  lowwidth := 0
  nibValue := 0
  nibCount := 0
  nibStart := 0
  wordValue := 0
  wordCount := 0
  wordStart := 0
  out := []
  inbox := []

end Sys2Proof.Machine
end

