-- ==== Sys2Proof/Machine/Flags.lean ====
section
/-! DEFINITION. Status and codes. The core has no flags or condition codes (10_state.md R31): what it shows the host is
`PHASE` and `ERR` (R22), and the enumeration numbers are those of 30_encoding.md R65 and R67. -/

namespace Sys2Proof.Machine

/-- The number of a phase in the 3-bit `PHASE` register (10_state.md R20, 30_encoding.md R67). -/
def Phase.code : Phase → BitVec 3
  | .idle => 0
  | .armed => 1
  | .running => 2
  | .stopped => 3
  | .error => 4

/-- The 2-bit code of an event kind (30_encoding.md R65). -/
def EventKind.code : EventKind → BitVec 2
  | .bit => 0
  | .leader => 1
  | .hex => 2
  | .word => 3

/-- The status outputs `PHASE` and `ERR`, all the host can read (10_state.md R22). Reading them is a function of the
state and changes nothing (20_memory.md R47). -/
def State.status (s : State) : BitVec 3 × Bit := (s.phase.code, s.err)

/-- The phases in which `cfgw` and `start` are accepted: IDLE, STOPPED, ERROR (60_exceptions.md R174). -/
def Phase.betweenRuns : Phase → Bool
  | .idle => true
  | .armed => false
  | .running => false
  | .stopped => true
  | .error => true

end Sys2Proof.Machine
end

