-- ==== Sys2Proof/Machine/Operands.lean ====
section
/-! DEFINITION. How operands are read: what of a `cfgw` value reaches its register, polarity correction, the direction
of an edge, and the interval counter's exact subtraction. -/

namespace Sys2Proof.Machine

/-- `value[0]`, what a 1-bit configuration register takes (40_thresholds_and_configuration.md R80). -/
def bitValue (value : Word) : Bit := value.extractLsb' 0 1

/-- `value[6:0]`, what `TOL` takes (40_thresholds_and_configuration.md R80). -/
def tolValue (value : Word) : BitVec 7 := value.extractLsb' 0 7

/-- Polarity correction, `lvl = raw XOR POL` (41_edge_tracker.md R101). -/
def correctedLevel (pol raw : Bit) : Bit := raw ^^^ pol

/-- What the pair (`oldpin`, `lvl`) makes of a report in RUNNING (41_edge_tracker.md R106). -/
inductive Direction where
  /-- (0, 0) or (1, 1). -/
  | unchanged
  /-- (1, 0). -/
  | falling
  /-- (0, 1). -/
  | rising
  deriving DecidableEq, Repr

/-- The direction of a report (41_edge_tracker.md R100, R106). -/
def direction (oldpin lvl : Bit) : Direction :=
  if lvl = oldpin then .unchanged else if lvl = 0 then .falling else .rising

/-- The interval counter: the samples from `since` to `now`, exact (41_edge_tracker.md R107). There is no answer when
the difference would be negative: the hardware's subtraction would wrap, and a model must not follow it there
(R108). -/
def width (now since : Word) : Option Word := if since ≤ now then some (now - since) else none

end Sys2Proof.Machine
end

