-- ==== Sys2Proof/Machine/Ops.lean ====
section
/-! DEFINITION. The shared operations: taking the next input, hardware reset, emitting an event, discarding a stimulus,
writing a configuration register, clearing the run state, and the one error the core raises. -/

namespace Sys2Proof.Machine

/-- What the core finds when it is ready for the next step. -/
inductive Fetched where
  /-- The host has offered nothing: the core waits (41_edge_tracker.md R112, 70_reset_and_hazards.md R199). -/
  | nothing
  /-- The reset input is asserted (70_reset_and_hazards.md R180). -/
  | reset (rest : List Input)
  /-- A stimulus word that decodes. -/
  | instr (i : Instr) (rest : List Input)
  /-- A reserved stimulus word (30_encoding.md R61, R62). -/
  | reserved (why : Reserved)
  deriving DecidableEq, Repr

/-- Take the host's next input (20_memory.md R45, R48). Consuming it is final: `rest` is what is left (R47). -/
def fetch (s : State) : Fetched :=
  match s.inbox with
  | [] => .nothing
  | .reset :: rest => .reset rest
  | .stimulus w :: rest =>
    match decode w with
    | .ok i => .instr i rest
    | .error why => .reserved why

/-- The state with what is left of the host's stimulus sequence. -/
def State.withInbox (s : State) (rest : List Input) : State := { s with inbox := rest }

/-- The host offers stimulus word `w` as the very next input. -/
def State.offer (s : State) (w : Stimulus) : State := s.withInbox (.stimulus w :: s.inbox)

/-- Hardware reset in any phase: every register at its reset value, `OUT` empty (70_reset_and_hazards.md R180). What the
host will still send is the host's and stays. -/
def hardwareReset (s : State) : State := State.reset.withInbox s.inbox

/-- `emit(kind, start, end, payload)`: append one event record to `OUT`; nothing else is read or written
(43_word_accumulator.md R148). The port accepts every event at once (20_memory.md R53). -/
def State.emit (s : State) (kind : EventKind) (startSample endSample : Word) (payload : Nat) : State :=
  { s with out := s.out ++ [{ kind, startSample, endSample, payload }] }

/-- The stimulus is discarded: no register written, no event emitted (00_scope.md section 6, 60_exceptions.md R174). -/
def State.discard (s : State) : Result := .next s

/-- The shared form of `cfgw` (40_thresholds_and_configuration.md R80): in IDLE, STOPPED and ERROR the register is
written, giving `written`; in ARMED and RUNNING the stimulus is discarded. A value outside the register's range has no
meaning in any phase (30_encoding.md R62). -/
def State.configure (s : State) (inRange : Bool) (written : State) : Result :=
  if inRange then
    if s.phase.betweenRuns then .next written else s.discard
  else .refused (.reserved .value)

/-- The clearing of the run state by an accepted `start`: edge state, accumulators and `OUT` take the zeros of hardware
reset (40_thresholds_and_configuration.md R81, 70_reset_and_hazards.md R183). -/
def State.clearRun (s : State) : State :=
  { s with
    oldpin := 0
    lastpos := 0
    falling := 0
    lastfalling := 0
    rising := 0
    lastrising := 0
    highwidth := 0
    lowwidth := 0
    nibValue := 0
    nibCount := 0
    nibStart := 0
    wordValue := 0
    wordCount := 0
    wordStart := 0
    out := [] }

/-- Taking the one exception, `raise ConfigurationError` (60_exceptions.md R162). Nothing is saved, there is no vector
and no mode change (R169). There is no return operation beside it: the way out is a later `start` that succeeds
(R164), which writes `ERR` and `PHASE` itself (`State.arm`). -/
def State.raiseConfigurationError (s : State) : State :=
  { s with
    zs := 0
    os := 0
    err := 1
    phase := .error }

/-- The end of a `start` that succeeds, which is also the way out of ERROR
(40_thresholds_and_configuration.md R81, 60_exceptions.md R164). -/
def State.arm (s : State) : State :=
  { s with
    err := 0
    phase := .armed }

end Sys2Proof.Machine
end

