-- ==== Sys2Proof/Machine/Thresholds.lean ====
section
/-! DEFINITION. THRESH, the threshold calculator (40_thresholds_and_configuration.md R82 to R93): exact integer
arithmetic, one division rounded down. -/

namespace Sys2Proof.Machine

/-- The zero threshold `ZS` (R83, R85). `Int` division by a positive constant rounds down (R93). -/
def zeroSamples (sr zt tol : Nat) : Int :=
  if zt = 0 then 0 else (sr : Int) * zt * (100 + tol) / 100000000 + 1

/-- The one threshold `OS` (R84, R85). It may be -1 and is not clamped (R89). -/
def oneSamples (sr ot tol : Nat) : Int :=
  if ot = 0 then 0 else (sr : Int) * ot * (100 - tol) / 100000000 - 1

/-- A threshold fits a two's complement register of `width` bits, sign included; `none` is unbounded (R88,
`THR_WIDTH`). DESIGN CHOICE, log entry 6. -/
def thresholdFits (width : Option Nat) (x : Int) : Bool :=
  match width with
  | none => true
  | some n => decide (-(2 : Int) ^ n ≤ 2 * x ∧ 2 * x < (2 : Int) ^ n)

/-- THRESH on a core with parameters `p`: write `ZS` and `OS` from `SR`, `ZT`, `OT`, `TOL` (R82). A finite core refuses
thresholds that do not fit (R88). -/
def State.thresh (p : Config.Params) (s : State) : Result :=
  let zs := zeroSamples s.sr.toNat s.zt.toNat s.tol.toNat
  let os := oneSamples s.sr.toNat s.ot.toNat s.tol.toNat
  if thresholdFits p.thrWidth zs && thresholdFits p.thrWidth os then .next { s with zs, os }
  else .refused .thresholdWidth

/-- THRESH: its meaning on the normative core (R82). -/
def execThresh (s : State) : Result := s.thresh Config.normative

end Sys2Proof.Machine
end

