-- ==== Sys2Proof/Machine/Configuration.lean ====
section
/-! DEFINITION. The two stimuli that prepare a run, `cfgw` (one meaning per register) and `start`
(40_thresholds_and_configuration.md R80, R81). -/

namespace Sys2Proof.Machine

/-- `cfgw pol, value` (R80, 10_state.md R13). -/
def execCfgwPol (value : Word) (s : State) : Result :=
  s.configure (Instr.cfgwPol value).wellFormed { s with pol := bitValue value }

/-- `cfgw end, value` (R80, 10_state.md R14). -/
def execCfgwEnd (value : Word) (s : State) : Result :=
  s.configure (Instr.cfgwEnd value).wellFormed { s with endian := bitValue value }

/-- `cfgw zt, value` (R80, 10_state.md R15). -/
def execCfgwZt (value : Word) (s : State) : Result :=
  s.configure (Instr.cfgwZt value).wellFormed { s with zt := value }

/-- `cfgw ot, value` (R80, 10_state.md R16). -/
def execCfgwOt (value : Word) (s : State) : Result :=
  s.configure (Instr.cfgwOt value).wellFormed { s with ot := value }

/-- `cfgw tol, value` (R80, 10_state.md R17). -/
def execCfgwTol (value : Word) (s : State) : Result :=
  s.configure (Instr.cfgwTol value).wellFormed { s with tol := tolValue value }

/-- `cfgw sr, value` (R80, 10_state.md R18). Writing 0 is legal; the error comes at `start`. -/
def execCfgwSr (value : Word) (s : State) : Result :=
  s.configure (Instr.cfgwSr value).wellFormed { s with sr := value }

/-- `start` on a core with parameters `p` (R81): the phase is tested first, then `SR` (60_exceptions.md R168). -/
def State.start (p : Config.Params) (s : State) : Result :=
  if s.phase.betweenRuns then
    if s.sr = 0 then .next s.clearRun.raiseConfigurationError
    else
      match s.clearRun.thresh p with
      | .next t => .next t.arm
      | .fault f => .fault f
      | .refused r => .refused r
  else s.discard

/-- `start`: its meaning on the normative core (R81). -/
def execStart (s : State) : Result := s.start Config.normative

end Sys2Proof.Machine
end

