-- ==== Sys2Proof/Machine/Accumulator.lean ====
section
/-! DEFINITION. The nibble and word accumulator: PUSH_BIT, ACC_RESET, EMIT_WORD (43_word_accumulator.md). -/

namespace Sys2Proof.Machine

/-- The nibble with one more bit: little shifts left and puts the bit at bit 0, big puts it at position `count`
(R141, R142). The register has 4 bits (10_state.md R28). DESIGN CHOICE, log entry 7. -/
def pushNibble (endian b : Bit) (count : BitVec 2) (value : BitVec 4) : BitVec 4 :=
  if endian = 0 then value <<< 1 ||| b.zeroExtend 4 else value ||| b.zeroExtend 4 <<< count.toNat

/-- The word with one more bit, no bit lost (R141, R142, R153). -/
def pushWord (endian b : Bit) (count value : Nat) : Nat :=
  if endian = 0 then value <<< 1 ||| b.toNat else value ||| b.toNat <<< count

/-- The shift of PUSH_BIT: the bit enters the nibble and the word, and both counts go up by one (R140, R143). A count of
4 is the 2-bit count's 0, which R144 makes it in the same step. -/
def State.shiftIn (s : State) (b : Bit) : State :=
  { s with
    nibValue := pushNibble s.endian b s.nibCount s.nibValue
    nibCount := s.nibCount + 1
    wordValue := pushWord s.endian b s.wordCount s.wordValue
    wordCount := s.wordCount + 1 }

/-- The completion of a nibble: the Hex event, then the nibble cleared (R144, R149). -/
def State.completeNibble (s : State) (now : Word) : State :=
  { s.emit .hex s.nibStart now s.nibValue.toNat with
    nibValue := 0
    nibCount := 0
    nibStart := now }

/-- The whole of PUSH_BIT's effect (R140): the shift, and on every fourth bit the completion. -/
def State.pushed (s : State) (b : Bit) (now : Word) : State :=
  if s.nibCount.toNat + 1 = 4 then (s.shiftIn b).completeNibble now else s.shiftIn b

/-- `count` bits fit the word register; `none` is unbounded (R153, `WORD_WIDTH`). -/
def wordFits (width : Option Nat) (count : Nat) : Bool :=
  match width with
  | none => true
  | some n => decide (count ≤ n)

/-- PUSH_BIT on a core with parameters `p` (R140). On a finite core the push that makes `word_count` exceed the width is
a fault, never a truncated value (R153). -/
def State.pushBit (p : Config.Params) (s : State) (b : Bit) (now : Word) : Result :=
  if wordFits p.wordWidth (s.wordCount + 1) then .next (s.pushed b now) else .fault .wordOverflow

/-- ACC_RESET: clear nibble and word, both starting at `now`; no event (R145). -/
def State.accReset (s : State) (now : Word) : State :=
  { s with
    nibValue := 0
    nibCount := 0
    nibStart := now
    wordValue := 0
    wordCount := 0
    wordStart := now }

/-- EMIT_WORD: the Word event; no register is written and nothing is cleared (R146, R147, R151). -/
def State.emitWord (s : State) (now : Word) : State := s.emit .word s.wordStart now s.wordValue

/-- PUSH_BIT(b, s): its meaning on the normative core (R140). -/
def execPushBit (b : Bit) (now : Word) (s : State) : Result := s.pushBit Config.normative b now

/-- ACC_RESET(s) (R145). -/
def execAccReset (now : Word) (s : State) : Result := .next (s.accReset now)

/-- EMIT_WORD(s) (R146). -/
def execEmitWord (now : Word) (s : State) : Result := .next (s.emitWord now)

end Sys2Proof.Machine
end

