-- ==== Sys2Proof/Machine/Classifier.lean ====
section
/-! DEFINITION. The bit classifier and the leader detector: CLASSIFY_LOW and CLASSIFY_HIGH (42_bit_classifier.md). Every
comparison is between exact integers (R130). -/

namespace Sys2Proof.Machine

/-- The bit a gap of `low` samples after a pulse of `high` samples decides, if any (R120 to R123). -/
def decideBit (zs os : Int) (low high : Nat) : Option Bit :=
  if zs < low ∧ 2 * (low : Int) ≤ 3 * os ∧ (high : Int) ≤ 2 * os then some 1
  else if (low : Int) < zs then some 0
  else none

/-- CLASSIFY_LOW on a core with parameters `p`: a decided bit is emitted with the span from the previous rising edge to
this one, and pushed (R120, R124). -/
def State.classifyLow (p : Config.Params) (s : State) (now : Word) : Result :=
  match decideBit s.zs s.os s.lowwidth.toNat s.highwidth.toNat with
  | some b => (s.emit .bit s.lastrising s.rising b.toNat).pushBit p b now
  | none => .next s

/-- What a pulse is (R125). -/
inductive Pulse where
  /-- Neither leader (R128). -/
  | ordinary
  /-- R127. -/
  | leadin
  /-- R126. -/
  | leadout
  deriving DecidableEq, Repr

/-- What a pulse of `high` samples after a gap of `low` samples is; the leadout test comes first (R125 to R128). -/
def decidePulse (zs os : Int) (low high : Nat) : Pulse :=
  if 2 * os ≤ (high : Int) then
    if 20 * zs ≤ (low : Int) ∧ (low : Int) < 100 * zs then .leadout else .leadin
  else .ordinary

/-- CLASSIFY_HIGH: a leadout emits the Leader and the Word event, a leadin emits the Leader event and resets the
accumulators, an ordinary pulse does nothing (R125, R129). -/
def State.classifyHigh (s : State) (now : Word) : State :=
  match decidePulse s.zs s.os s.lowwidth.toNat s.highwidth.toNat with
  | .leadout => (s.emit .leader s.rising now 1).emitWord now
  | .leadin => (s.emit .leader s.rising now 0).accReset now
  | .ordinary => s

/-- CLASSIFY_LOW(s): its meaning on the normative core (R120). -/
def execClassifyLow (now : Word) (s : State) : Result := s.classifyLow Config.normative now

/-- CLASSIFY_HIGH(s) (R125). -/
def execClassifyHigh (now : Word) (s : State) : Result := .next (s.classifyHigh now)

end Sys2Proof.Machine
end

