-- ==== Sys2Proof/Machine/Tracker.lean ====
section
/-! DEFINITION. The edge tracker and the interval counter: INIT, RISE, FALL, `edge` and `eos` (41_edge_tracker.md). -/

namespace Sys2Proof.Machine

/-- INIT: the first report of a run is the first observed sample, not a transition; no event, no classification
(R102). -/
def State.initRun (s : State) (now : Word) (lvl : Bit) : State :=
  { s with
    oldpin := lvl
    lastpos := now
    falling := now
    lastfalling := now
    rising := now
    lastrising := now
    highwidth := 0
    lowwidth := 0
    nibStart := now
    wordStart := now
    phase := .running }

/-- The edge-state writes of FALL, given the width of the pulse that ended: shift, record, measure (R104). -/
def State.recordFall (s : State) (now high : Word) : State :=
  { s with
    lastfalling := s.falling
    falling := now
    highwidth := high
    lastpos := now
    oldpin := 0 }

/-- The edge-state writes of RISE, given the width of the gap that ended: shift, record, measure (R105). -/
def State.recordRise (s : State) (now low : Word) : State :=
  { s with
    lastrising := s.rising
    rising := now
    lowwidth := low
    lastpos := now
    oldpin := 1 }

/-- FALL (R104). A width that would be negative is a breach of the host's sample-order duty and is refused (R108). -/
def State.fall (s : State) (now : Word) : Result :=
  match width now s.rising with
  | some high => .next ((s.recordFall now high).classifyHigh now)
  | none => .refused .sampleOrder

/-- RISE on a core with parameters `p` (R105). A width that would be negative is refused, as in FALL (R108). -/
def State.rise (p : Config.Params) (s : State) (now : Word) : Result :=
  match width now s.falling with
  | some low => (s.recordRise now low).classifyLow p now
  | none => .refused .sampleOrder

/-- A report in RUNNING on a core with parameters `p` (R100): an unchanged level does nothing, whatever its index
(R103); a changed level with an index below `lastpos` is refused (R108); else the edge is taken. -/
def State.report (p : Config.Params) (s : State) (index : Word) (lvl : Bit) : Result :=
  match direction s.oldpin lvl with
  | .unchanged => .next s
  | .falling => if index < s.lastpos then .refused .sampleOrder else s.fall index
  | .rising => if index < s.lastpos then .refused .sampleOrder else s.rise p index

/-- `edge index, level` on a core with parameters `p` (R100, R111): polarity correction before anything else reads the
level (R101), then the phase, then the level against `oldpin` (60_exceptions.md R168). -/
def State.edge (p : Config.Params) (s : State) (index : Word) (level : Bit) : Result :=
  match s.phase with
  | .armed => .next (s.initRun index (correctedLevel s.pol level))
  | .running => s.report p index (correctedLevel s.pol level)
  | .idle => s.discard
  | .stopped => s.discard
  | .error => s.discard

/-- `eos`: the run ends, nothing is flushed (R112). -/
def State.endRun (s : State) : Result :=
  match s.phase with
  | .armed => .next { s with phase := .stopped }
  | .running => .next { s with phase := .stopped }
  | .idle => s.discard
  | .stopped => s.discard
  | .error => s.discard

/-- INIT(s, lvl) (R102). -/
def execInit (now : Word) (lvl : Bit) (s : State) : Result := .next (s.initRun now lvl)

/-- FALL(s) (R104). -/
def execFall (now : Word) (s : State) : Result := s.fall now

/-- RISE(s): its meaning on the normative core (R105). -/
def execRise (now : Word) (s : State) : Result := s.rise Config.normative now

/-- `edge index, level`: its meaning on the normative core (R100). -/
def execEdge (index : Word) (level : Bit) (s : State) : Result := s.edge Config.normative index level

/-- `eos` (R112). -/
def execEos (s : State) : Result := s.endRun

end Sys2Proof.Machine
end

