-- ==== Sys2Proof/Machine/Dispatch.lean ====
section
/-! DEFINITION. The meaning of every row of the opcode table, one arm each. -/

namespace Sys2Proof.Machine

def exec (i : Instr) (s : State) : Host.Outcome State Fault Refusal :=
  match i with
  | .cfgwPol value => Sys2Proof.Machine.execCfgwPol value s
  | .cfgwEnd value => Sys2Proof.Machine.execCfgwEnd value s
  | .cfgwZt value => Sys2Proof.Machine.execCfgwZt value s
  | .cfgwOt value => Sys2Proof.Machine.execCfgwOt value s
  | .cfgwTol value => Sys2Proof.Machine.execCfgwTol value s
  | .cfgwSr value => Sys2Proof.Machine.execCfgwSr value s
  | .start => Sys2Proof.Machine.execStart s
  | .edge index level => Sys2Proof.Machine.execEdge index level s
  | .eos => Sys2Proof.Machine.execEos s
  | .thresh => Sys2Proof.Machine.execThresh s
  | .init now lvl => Sys2Proof.Machine.execInit now lvl s
  | .rise now => Sys2Proof.Machine.execRise now s
  | .fall now => Sys2Proof.Machine.execFall now s
  | .classifyLow now => Sys2Proof.Machine.execClassifyLow now s
  | .classifyHigh now => Sys2Proof.Machine.execClassifyHigh now s
  | .pushBit b now => Sys2Proof.Machine.execPushBit b now s
  | .accReset now => Sys2Proof.Machine.execAccReset now s
  | .emitWord now => Sys2Proof.Machine.execEmitWord now s

end Sys2Proof.Machine
end

