-- ==== Sys2Proof/Machine/Step.lean ====
section
/-! DEFINITION. One step: the core consumes one input, whole (00_scope.md R1, R2, 20_memory.md R48). -/

namespace Sys2Proof.Machine

/-- One step. With nothing offered the core waits: that is a step that changes nothing, not a stop
(41_edge_tracker.md R112). Reset is a transition of its own (93_implementation_defined.md S7). -/
def step (s : State) : Host.Outcome State Fault Refusal :=
  match fetch s with
  | .nothing => .next s
  | .reset rest => .next (hardwareReset (s.withInbox rest))
  | .instr i rest => exec i (s.withInbox rest)
  | .reserved why => .refused (.reserved why)

/-- The state in which the host's next stimulus is the word `tableWord nbits w`. -/
def State.withFetchWord (s : State) (nbits w : Nat) : State := s.offer (tableWord nbits w)

end Sys2Proof.Machine
end

