-- ==== Sys2Proof/Machine/FrontEnd.lean ====
section
/-! DEFINITION. How edge reports come to be: the `wave` and `rep` pseudo-stimuli (30_encoding.md R69) and the raw-sample
front end (41_edge_tracker.md R113, informative). They stand beside the machine; no step uses them. DESIGN CHOICE, log
entry 11. -/

namespace Sys2Proof.Machine

/-- A run of a raw sample stream: the line holds `level` for `length` samples. -/
abbrev Run := Bit × Nat

/-- One edge report before it is a stimulus: a position in the stream and the raw level from there on. -/
abbrev Report := Nat × Bit

/-- The body of a `wave`: runs in order, with `rep n` repeating the runs it encloses. -/
inductive Wave where
  /-- Nothing more. -/
  | done
  /-- `(level,length)` and then the rest. -/
  | run (level : Bit) (length : Nat) (rest : Wave)
  /-- `rep times` around `body`, and then the rest. -/
  | rep (times : Nat) (body rest : Wave)
  deriving DecidableEq, Repr

/-- The runs a wave writes, every `rep` written out. -/
def Wave.runs : Wave → List Run
  | .done => []
  | .run level length rest => (level, length) :: rest.runs
  | .rep times body rest => (List.replicate times body.runs).flatten ++ rest.runs

/-- The reports of the later runs: one at the position where a run begins whose level differs from the run before it;
a run of the same level only adds its length. -/
def laterReports : Bit → Nat → List Run → List Report
  | _, _, [] => []
  | before, at_, (level, length) :: rest =>
    if level = before then laterReports before (at_ + length) rest
    else (at_, level) :: laterReports level (at_ + length) rest

/-- The reports a `wave first: ...` expands to: one for the first run, then those of the later runs (R69). -/
def waveReports (first : Nat) : List Run → List Report
  | [] => []
  | (level, length) :: rest => (first, level) :: laterReports level (first + length) rest

/-- The reports of the later samples: one at every sample whose level differs from the sample before it. -/
def laterSampleReports : Bit → Nat → List Bit → List Report
  | _, _, [] => []
  | before, n, level :: rest =>
    if level = before then laterSampleReports before (n + 1) rest
    else (n, level) :: laterSampleReports level (n + 1) rest

/-- The front end: a counter that is `first` at the first sample and goes up by 1 at every sample; a report at the first
sample and at every change (R113, which counts from 0). -/
def sampleReports (first : Nat) : List Bit → List Report
  | [] => []
  | level :: rest => (first, level) :: laterSampleReports level (first + 1) rest

/-- The samples of a list of runs. -/
def samplesOf (runs : List Run) : List Bit := (runs.map (fun r => List.replicate r.2 r.1)).flatten

/-- The stimuli of a list of reports; none when a position does not fit the 64-bit sample index, which must not wrap
within a run (41_edge_tracker.md R108, 93_implementation_defined.md S4). -/
def reportStimuli (reports : List Report) : Option (List Instr) :=
  if reports.all (fun r => decide (r.1 < 2 ^ 64)) then
    some (reports.map (fun r => .edge (BitVec.ofNat 64 r.1) r.2))
  else none

/-- The stimuli a `wave` stands for (R69). -/
def Wave.stimuli (first : Nat) (w : Wave) : Option (List Instr) := reportStimuli (waveReports first w.runs)

end Sys2Proof.Machine
end

