-- ==== Sys2Proof/Machine/Rendering.lean ====
section
/-! DEFINITION. The text of an event's payload (43_word_accumulator.md R150). The renderer is outside the core; the text
is a function of the event record. -/

namespace Sys2Proof.Machine

/-- The digit of a value below 16: 0 to 9 are "0" to "9" (code 48 on), 10 to 15 are "a" to "f" (code 97 on). PRESUMED, log entry
10. -/
def hexDigit (n : Nat) : Char := if n < 10 then Char.ofNat (48 + n) else Char.ofNat (87 + n)

/-- The digits of `n` in base `base`, most significant first, put before `acc`. `fuel` above `n` is always enough. -/
def digitsBefore (base : Nat) (digit : Nat → Char) : Nat → Nat → List Char → List Char
  | 0, _, acc => acc
  | fuel + 1, n, acc =>
    if n / base = 0 then digit (n % base) :: acc
    else digitsBefore base digit fuel (n / base) (digit (n % base) :: acc)

/-- `n` in lowercase hexadecimal, no leading zeros, at least one digit. -/
def hexDigits (n : Nat) : List Char := digitsBefore 16 hexDigit (n + 1) n []

/-- `n` in decimal, no leading zeros, at least one digit (30_encoding.md R68). -/
def decimalDigits (n : Nat) : List Char := digitsBefore 10 hexDigit (n + 1) n []

/-- The characters of a payload, by kind (R150). -/
def Event.textChars (e : Event) : List Char :=
  match e.kind with
  | .bit => hexDigits e.payload
  | .leader => if e.payload = 0 then ['l', 'e', 'a', 'd', 'i', 'n'] else ['l', 'e', 'a', 'd', 'o', 'u', 't']
  | .hex => hexDigits e.payload
  | .word => '0' :: 'x' :: hexDigits e.payload

/-- The text of a payload (R150). -/
def Event.text (e : Event) : String := String.ofList e.textChars

end Sys2Proof.Machine
end

