-- ==== Sys2Proof/Machine/Written.lean ====
section
/-! DEFINITION. The written form of a stimulus, one a line (30_encoding.md R68): a printer and a reader, and a reader of the
`wave` and `rep` pseudo-stimuli (R69). They stand beside the machine; no step uses them. DESIGN CHOICE, log
entry 11. -/

namespace Sys2Proof.Machine

/-- The name of a configuration register by its number. -/
def registerName : Nat → List Char
  | 0 => ['p', 'o', 'l']
  | 1 => ['e', 'n', 'd']
  | 2 => ['z', 't']
  | 3 => ['o', 't']
  | 4 => ['t', 'o', 'l']
  | _ => ['s', 'r']

/-- `cfgw <reg>, <value>`, the value in decimal. -/
def writtenCfgw (reg : Nat) (value : Word) : List Char :=
  ['c', 'f', 'g', 'w', ' '] ++ registerName reg ++ [',', ' '] ++ decimalDigits value.toNat

/-- The written form of a stimulus; an internal operation has none. -/
def written : Instr → Option (List Char)
  | .cfgwPol v => some (writtenCfgw 0 v)
  | .cfgwEnd v => some (writtenCfgw 1 v)
  | .cfgwZt v => some (writtenCfgw 2 v)
  | .cfgwOt v => some (writtenCfgw 3 v)
  | .cfgwTol v => some (writtenCfgw 4 v)
  | .cfgwSr v => some (writtenCfgw 5 v)
  | .start => some ['s', 't', 'a', 'r', 't']
  | .edge index level =>
    some (['e', 'd', 'g', 'e', ' '] ++ decimalDigits index.toNat ++ [',', ' '] ++ decimalDigits level.toNat)
  | .eos => some ['e', 'o', 's']
  | .thresh => none
  | .init _ _ => none
  | .rise _ => none
  | .fall _ => none
  | .classifyLow _ => none
  | .classifyHigh _ => none
  | .pushBit _ _ => none
  | .accReset _ => none
  | .emitWord _ => none

/-- A character between two words of a line: a space or a comma. -/
def isGap (c : Char) : Bool := c == ' ' || c == ','

/-- The words of a line: `current` is the word being read, reversed. -/
def wordsFrom : List Char → List Char → List (List Char)
  | current, [] => if current.isEmpty then [] else [current.reverse]
  | current, c :: rest =>
    if isGap c then
      if current.isEmpty then wordsFrom [] rest else current.reverse :: wordsFrom [] rest
    else wordsFrom (c :: current) rest

/-- The words of a line without its comment, which a `;` starts. -/
def lineWords (line : List Char) : List (List Char) := wordsFrom [] (line.takeWhile (fun c => c != ';'))

/-- The value of a decimal digit. -/
def digitValue (c : Char) : Option Nat :=
  if 48 ≤ c.toNat ∧ c.toNat ≤ 57 then some (c.toNat - 48) else none

/-- A decimal number read on from the value `acc` of the digits before. -/
def decimalFrom : Nat → List Char → Option Nat
  | acc, [] => some acc
  | acc, c :: rest =>
    match digitValue c with
    | some d => decimalFrom (10 * acc + d) rest
    | none => none

/-- A decimal number: one digit or more. -/
def readDecimal (w : List Char) : Option Nat := if w.isEmpty then none else decimalFrom 0 w

/-- A decimal number that fits 64 bits. -/
def readWord (w : List Char) : Option Word :=
  match readDecimal w with
  | some n => if n < 2 ^ 64 then some (BitVec.ofNat 64 n) else none
  | none => none

/-- The value of `cfgw pol` in words: `high` is 0, `low` is 1. -/
def readPolarity (w : List Char) : Option Word :=
  if w = ['h', 'i', 'g', 'h'] then some 0 else if w = ['l', 'o', 'w'] then some 1 else readWord w

/-- The value of `cfgw end` in words: `little` is 0, `big` is 1. -/
def readOrder (w : List Char) : Option Word :=
  if w = ['l', 'i', 't', 't', 'l', 'e'] then some 0 else if w = ['b', 'i', 'g'] then some 1 else readWord w

/-- `cfgw` with the register named or numbered. -/
def readCfgw (reg value : List Char) : Option Instr :=
  if reg = registerName 0 ∨ reg = ['0'] then (readPolarity value).map .cfgwPol
  else if reg = registerName 1 ∨ reg = ['1'] then (readOrder value).map .cfgwEnd
  else if reg = registerName 2 ∨ reg = ['2'] then (readWord value).map .cfgwZt
  else if reg = registerName 3 ∨ reg = ['3'] then (readWord value).map .cfgwOt
  else if reg = registerName 4 ∨ reg = ['4'] then (readWord value).map .cfgwTol
  else if reg = registerName 5 ∨ reg = ['5'] then (readWord value).map .cfgwSr
  else none

/-- `edge` with its index and its level, which is 0 or 1. -/
def readEdge (index level : List Char) : Option Instr :=
  match readWord index with
  | some i => if level = ['0'] then some (.edge i 0) else if level = ['1'] then some (.edge i 1) else none
  | none => none

/-- The stimulus a line writes: `none` if the line is not of the written form, `some none` if it is empty or a
comment. -/
def readLine (line : List Char) : Option (Option Instr) :=
  match lineWords line with
  | [] => some none
  | [w] =>
    if w = ['s', 't', 'a', 'r', 't'] then some (some .start)
    else if w = ['e', 'o', 's'] then some (some .eos)
    else none
  | [w, a, b] =>
    if w = ['c', 'f', 'g', 'w'] then (readCfgw a b).map some
    else if w = ['e', 'd', 'g', 'e'] then (readEdge a b).map some
    else none
  | _ => none

/-- A character that is a word of a `wave` by itself: parentheses, the colon, and braces (codes 123 and 125). -/
def isMark (c : Char) : Bool := c == '(' || c == ')' || c == ':' || c.toNat == 123 || c.toNat == 125

/-- The words of a `wave`: a mark stands alone, a space or a comma ends a word. -/
def spaced : List Char → List Char
  | [] => []
  | c :: rest => if isMark c then ' ' :: c :: ' ' :: spaced rest else c :: spaced rest

/-- A raw level in a `wave`: 0 or 1. -/
def readLevel (w : List Char) : Option Bit := if w = ['0'] then some 0 else if w = ['1'] then some 1 else none

/-- The runs of a `wave`'s body. `open_` holds, innermost first, the count of each `rep` not yet closed and the runs
before it; `runs` are those read since. The first argument bounds the words still to read. -/
def readRuns : Nat → List (List Char) → List (Nat × List Run) → List Run → Option (List Run)
  | 0, _, _, _ => none
  | fuel + 1, ws, open_, runs =>
    match ws with
    | [] => if open_.isEmpty then some runs else none
    | ['('] :: level :: length :: [')'] :: rest =>
      match readLevel level, readDecimal length with
      | some l, some n => readRuns fuel rest open_ (runs ++ [(l, n)])
      | _, _ => none
    | ['r', 'e', 'p'] :: times :: [mark] :: rest =>
      match readDecimal times with
      | some n => if mark.toNat = 123 then readRuns fuel rest ((n, runs) :: open_) [] else none
      | none => none
    | [mark] :: rest =>
      match open_ with
      | (n, before) :: outer =>
        if mark.toNat = 125 then readRuns fuel rest outer (before ++ (List.replicate n runs).flatten) else none
      | [] => none
    | _ => none

/-- The edge reports a written `wave <first>: ...` expands to (R69). -/
def readWave (line : List Char) : Option (List Report) :=
  match lineWords (spaced line) with
  | ['w', 'a', 'v', 'e'] :: first :: [':'] :: body =>
    match readDecimal first, readRuns (body.length + 1) body [] [] with
    | some n, some runs => some (waveReports n runs)
    | _, _ => none
  | _ => none

end Sys2Proof.Machine
end

