-- ==== Sys2Proof/Safety.lean ====
section
/-! DEFINITION. The terms claims are made in: the invariants of 10_state.md R34 and 43_word_accumulator.md R152, the phase
table of 60_exceptions.md R174, the thresholds as R83 and R84 write them, and pushing a list of bits. -/

namespace Sys2Proof.Machine

/-- The run state is all zero and `OUT` is empty: what hardware reset and an accepted `start` leave (R81, R163,
R182). -/
abbrev State.RunClear (s : State) : Prop :=
  s.oldpin = 0 ∧ s.lastpos = 0 ∧ s.falling = 0 ∧ s.lastfalling = 0 ∧ s.rising = 0 ∧ s.lastrising = 0 ∧
  s.highwidth = 0 ∧ s.lowwidth = 0 ∧ s.nibValue = 0 ∧ s.nibCount = 0 ∧ s.nibStart = 0 ∧
  s.wordValue = 0 ∧ s.wordCount = 0 ∧ s.wordStart = 0 ∧ s.out = []

/-- Configuration, thresholds and status: `TOL` at most 100 (R17), the bounds of the thresholds (R19, R88), `ERR = 1`
exactly in ERROR (R21), zero thresholds in IDLE and ERROR (R19), and, in a run, the thresholds of the configuration as
it stands (R52, R82). -/
abbrev State.ControlInv (s : State) : Prop :=
  s.tol.toNat ≤ 100 ∧
  0 ≤ s.zs ∧ s.zs < 2 ^ 110 ∧ -1 ≤ s.os ∧ s.os < 2 ^ 109 ∧
  (s.err = 1 ↔ s.phase = .error) ∧
  (s.phase = .idle ∨ s.phase = .error → s.zs = 0 ∧ s.os = 0) ∧
  (s.phase = .armed ∨ s.phase = .running →
    s.sr ≠ 0 ∧ s.zs = zeroSamples s.sr.toNat s.zt.toNat s.tol.toNat ∧
    s.os = oneSamples s.sr.toNat s.ot.toNat s.tol.toNat)

/-- The accumulators, in every phase: the counts and the sizes of R34 (a), (b) and R152, and R34 (g). -/
abbrev State.AccumulatorInv (s : State) : Prop :=
  s.nibCount.toNat = s.wordCount % 4 ∧ s.nibValue.toNat < 2 ^ s.nibCount.toNat ∧ s.wordValue < 2 ^ s.wordCount ∧
  s.wordStart ≤ s.nibStart

/-- The nibble is the last bits of the word: its low bits in little order, its high bits in big order (R152). It speaks
of a run: `END` may be rewritten after one. -/
abbrev State.BitOrderInv (s : State) : Prop :=
  (s.endian = 0 → s.nibValue.toNat = s.wordValue % 2 ^ s.nibCount.toNat) ∧
  (s.endian = 1 → s.nibValue.toNat = s.wordValue >>> (s.wordCount - s.nibCount.toNat))

/-- The edge state in RUNNING (R25, R34 (c), (d), (e)): the order of the last four edges, `lastpos`, and the widths, which
are differences of the timestamps the registers still hold. -/
abbrev State.EdgeInv (s : State) : Prop :=
  (s.oldpin = 1 →
    s.lastfalling ≤ s.lastrising ∧ s.lastrising ≤ s.falling ∧ s.falling ≤ s.rising ∧ s.lastpos = s.rising ∧
    s.highwidth.toNat = s.falling.toNat - s.lastrising.toNat ∧
    s.lowwidth.toNat = s.rising.toNat - s.falling.toNat) ∧
  (s.oldpin = 0 →
    s.lastrising ≤ s.lastfalling ∧ s.lastfalling ≤ s.rising ∧ s.rising ≤ s.falling ∧ s.lastpos = s.falling ∧
    s.highwidth.toNat = s.falling.toNat - s.rising.toNat ∧
    s.lowwidth.toNat = s.rising.toNat - s.lastfalling.toNat)

/-- What holds of the state between steps, in any phase. -/
structure State.Inv (s : State) : Prop where
  /-- Configuration, thresholds, status. -/
  control : s.ControlInv
  /-- No run, no run state: IDLE, ARMED and ERROR (R163, R174, R182). -/
  clear : s.phase = .idle ∨ s.phase = .armed ∨ s.phase = .error → s.RunClear
  /-- The accumulators. -/
  accumulator : s.AccumulatorInv
  /-- The bit order of the nibble in the word. -/
  bitOrder : s.phase = .running → s.BitOrderInv
  /-- The edge state. -/
  edges : s.phase = .running → s.EdgeInv
  /-- No accumulator starts after the last edge. -/
  starts : s.nibStart ≤ s.lastpos

/-- The register that will be the start of the next event of a kind, or that bounds it from below (R124, R129, R149,
R151). -/
def State.startBound (s : State) : EventKind → Word
  | .bit => s.lastrising
  | .leader => s.rising
  | .hex => s.nibStart
  | .word => s.wordStart

/-- The payload of an event is in its kind's range (30_encoding.md R66). -/
def Event.payloadInRange (e : Event) : Bool :=
  match e.kind with
  | .bit => decide (e.payload ≤ 1)
  | .leader => decide (e.payload ≤ 1)
  | .hex => decide (e.payload < 16)
  | .word => true

/-- What is true of the event stream (20_memory.md R50, 30_encoding.md R66): `end_sample` never decreases, `start_sample`
never decreases among events of one kind, each event starts no later than it ends and has a payload of its kind, and the
registers bound what was emitted. -/
abbrev State.StreamInv (s : State) : Prop :=
  s.out.Pairwise
    (fun a b => a.endSample ≤ b.endSample ∧ (a.kind = b.kind → a.startSample ≤ b.startSample)) ∧
  ∀ e ∈ s.out, e.startSample ≤ e.endSample ∧ e.endSample ≤ s.lastpos ∧ e.startSample ≤ s.startBound e.kind ∧
    e.payloadInRange = true

/-- The events of `t` that were not yet in `s`. -/
def State.newEvents (s t : State) : List Event := t.out.drop s.out.length

/-- The phase after an accepted or discarded stimulus, as the phase table gives it (60_exceptions.md R174); of the
internal operations only INIT changes it (41_edge_tracker.md R102). -/
def phaseAfter (i : Instr) (sr : Word) (p : Phase) : Phase :=
  match i with
  | .start => if p.betweenRuns then (if sr = 0 then .error else .armed) else p
  | .edge _ _ => if p = .armed then .running else p
  | .eos => if p = .armed ∨ p = .running then .stopped else p
  | .init _ _ => .running
  | .cfgwPol _ | .cfgwEnd _ | .cfgwZt _ | .cfgwOt _ | .cfgwTol _ | .cfgwSr _ => p
  | .thresh | .rise _ | .fall _ | .classifyLow _ | .classifyHigh _ | .pushBit _ _ | .accReset _ | .emitWord _ => p

/-- The discard cells of the phase table (60_exceptions.md R174). -/
def discards (i : Instr) (p : Phase) : Bool :=
  match i with
  | .cfgwPol _ | .cfgwEnd _ | .cfgwZt _ | .cfgwOt _ | .cfgwTol _ | .cfgwSr _ | .start => p == .armed || p == .running
  | .edge _ _ | .eos => p == .idle || p == .stopped || p == .error
  | .thresh | .init _ _ | .rise _ | .fall _ | .classifyLow _ | .classifyHigh _ | .pushBit _ _ | .accReset _
  | .emitWord _ => false

/-- `ZS` as R83 and R85 write it: the floor of a rational. -/
def ruleZeroSamples (sr zt : Word) (tol : BitVec 7) : Int :=
  if zt = 0 then 0 else ⌊((sr.toNat * zt.toNat * (100 + tol.toNat) : ℕ) : ℚ) / 100000000⌋ + 1

/-- `OS` as R84 and R85 write it, for a tolerance of at most 100. -/
def ruleOneSamples (sr ot : Word) (tol : BitVec 7) : Int :=
  if ot = 0 then 0 else ⌊((sr.toNat * ot.toNat * (100 - tol.toNat) : ℕ) : ℚ) / 100000000⌋ - 1

/-- PUSH_BIT for each of a list of decided bits and their rising edges, in order. -/
def pushAll : List (Bit × Word) → State → Result
  | [], s => .next s
  | (b, now) :: rest, s =>
    match exec (.pushBit b now) s with
    | .next t => pushAll rest t
    | .fault f => .fault f
    | .refused r => .refused r

/-- The value of a hexadecimal digit character, lower case. -/
def hexValue (c : Char) : Nat := if c.toNat < 58 then c.toNat - 48 else c.toNat - 87

end Sys2Proof.Machine
end

