-- ==== Sys2Proof/Certificates/Slice0/Obligations.lean ====
section
/-! DEFINITION. The statements for the provers: encoding, the step, one result, frame and completion statement for every
row of the opcode table, the invariants, and the whole-machine rules the spec derives. -/

open Sys2Proof Sys2Proof.Machine

/-! Encoding. -/

/-- R55 to R60, R63: every operand of every stimulus survives encoding and decoding.
Rests on the spec's own decisions D16, D17. -/
def Obligations.DecodeOfEncode : Prop :=
  ∀ i : Instr, i.isStimulus = true → i.wellFormed = true → (encode i).map decode = some (.ok i)

/-- R63 and 30_encoding.md section 3: a word that decodes is the one encoding of what it decodes to, which is a stimulus
in range; so no word decodes to an internal operation.
Rests on the spec's own decision D16. -/
def Obligations.EncodeOfDecode : Prop :=
  ∀ (w : Stimulus) (i : Instr), decode w = .ok i → encode i = some w ∧ i.isStimulus = true ∧ i.wellFormed = true

/-- R61 and R62: a step on a stimulus word is refused as reserved exactly for the words these rules list, in any
state.
Rests on the spec's own decisions D4, D28. -/
def Obligations.ReservedWordsRefused : Prop :=
  ∀ (s : State) (w : Stimulus) (rest : List Input), s.inbox = .stimulus w :: rest →
    ((∃ why, step s = .refused (.reserved why)) ↔
      (w.toNat / 2 ^ 68 = 0 ∨ 5 ≤ w.toNat / 2 ^ 68) ∨
      (w.toNat / 2 ^ 68 = 1 ∧ 6 ≤ w.toNat / 2 ^ 64 % 16) ∨
      ((w.toNat / 2 ^ 68 = 2 ∨ w.toNat / 2 ^ 68 = 4) ∧ (w.toNat / 2 ^ 64 % 16 ≠ 0 ∨ w.toNat % 2 ^ 64 ≠ 0)) ∨
      (w.toNat / 2 ^ 68 = 3 ∧ w.toNat / 2 ^ 64 % 16 / 2 ≠ 0) ∨
      (w.toNat / 2 ^ 68 = 1 ∧ w.toNat / 2 ^ 64 % 16 ≤ 1 ∧ 1 < w.toNat % 2 ^ 64) ∨
      (w.toNat / 2 ^ 68 = 1 ∧ w.toNat / 2 ^ 64 % 16 = 4 ∧ 100 < w.toNat % 2 ^ 64))

/-- Words of 95_test_vectors.md V2 and V3, one of each form.
Rests on the spec's own decision D16. -/
def Obligations.WordsOfTheTable : Prop :=
  decode 0x100000000000000000#72 = .ok (.cfgwPol 0) ∧
  decode 0x110000000000000001#72 = .ok (.cfgwEnd 1) ∧
  decode 0x120000000000000190#72 = .ok (.cfgwZt 400) ∧
  decode 0x130000000000000320#72 = .ok (.cfgwOt 800) ∧
  decode 0x140000000000000064#72 = .ok (.cfgwTol 100) ∧
  decode 0x1500000000000F4240#72 = .ok (.cfgwSr 1000000) ∧
  decode 0x200000000000000000#72 = .ok .start ∧
  decode 0x3100000000000007D0#72 = .ok (.edge 2000 1) ∧
  decode 0x400000000000000000#72 = .ok .eos ∧
  decode 0x140000000000000065#72 = .error .value ∧
  decode 0x320000000000000000#72 = .error .selector

/-! The step, reset and status. -/

/-- R2, R45, R48: a stimulus word that decodes is consumed and its instruction is what the step runs.
Rests on the spec's own decisions D1, D26. -/
def Obligations.StepRunsTheDecoded : Prop :=
  ∀ (s : State) (w : Stimulus) (rest : List Input) (i : Instr),
    s.inbox = .stimulus w :: rest → decode w = .ok i → step s = exec i { s with inbox := rest }

/-- R112: a stimulus sequence that simply stops leaves the core waiting, which is not a stop. -/
def Obligations.StepWaits : Prop :=
  ∀ s : State, s.inbox = [] → step s = .next s

/-- R180 to R182: reset in any phase puts every register at its reset value and empties `OUT`.
Rests on the spec's own decisions D7, D9. -/
def Obligations.HardwareReset : Prop :=
  ∀ (s : State) (rest : List Input), s.inbox = .reset :: rest →
    step s = .next
      { pol := 1, endian := 0, zt := 400, ot := 800, tol := 20, sr := 0, zs := 0, os := 0, phase := .idle, err := 0,
        oldpin := 0, lastpos := 0, falling := 0, lastfalling := 0, rising := 0, lastrising := 0, highwidth := 0,
        lowwidth := 0, nibValue := 0, nibCount := 0, nibStart := 0, wordValue := 0, wordCount := 0, wordStart := 0,
        out := [], inbox := rest }

/-- R181 and R182 of `State.reset`.
Rests on the spec's own decisions D6, D7. -/
def Obligations.ResetValues : Prop :=
  State.reset.pol = 1 ∧ State.reset.endian = 0 ∧ State.reset.zt = 400 ∧ State.reset.ot = 800 ∧
  State.reset.tol = 20 ∧ State.reset.sr = 0 ∧ State.reset.zs = 0 ∧ State.reset.os = 0 ∧
  State.reset.phase = .idle ∧ State.reset.err = 0 ∧ State.reset.RunClear

/-- R20 to R22, R65, R67: what the status outputs and the event kinds read as.
Rests on the spec's own decisions D15, D17, D18. -/
def Obligations.StatusCodes : Prop :=
  Phase.idle.code = 0 ∧ Phase.armed.code = 1 ∧ Phase.running.code = 2 ∧ Phase.stopped.code = 3 ∧
  Phase.error.code = 4 ∧
  EventKind.bit.code = 0 ∧ EventKind.leader.code = 1 ∧ EventKind.hex.code = 2 ∧ EventKind.word.code = 3 ∧
  ∀ s : State, s.status = (s.phase.code, s.err)

/-! Invariants. -/

/-- R34, R152: the invariant holds after hardware reset.
Rests on the spec's own decision D7. -/
def Obligations.ResetInv : Prop := State.reset.Inv ∧ State.reset.StreamInv

/-- R19, R21, R34, R88, R152, R163: every step keeps the invariant, from every state that has it. -/
def Obligations.StepKeepsInv : Prop :=
  ∀ s t : State, s.Inv → step s = .next t → t.Inv

/-- R49, R50, R66: every step keeps the order of the event stream.
Rests on the spec's own decisions D13, D14. -/
def Obligations.StepKeepsStream : Prop :=
  ∀ s t : State, s.Inv → s.StreamInv → step s = .next t → t.StreamInv

/-- R34 (c): in a run every timestamp is at least the first sample index `first` of the run, which INIT gives all of
them and no later step of the run goes below.
Rests on the spec's own decisions D8, D9. -/
def Obligations.TimestampsSinceFirst : Prop :=
  (∀ (s : State) (first : Word) (level : Bit), s.phase = .armed →
    ∃ t, exec (.edge first level) s = .next t ∧ t.lastpos = first ∧ t.falling = first ∧ t.lastfalling = first ∧
      t.rising = first ∧ t.lastrising = first) ∧
  ∀ (s t : State) (first : Word), s.Inv → s.phase = .running → t.phase = .running → step s = .next t →
    first ≤ s.lastpos ∧ first ≤ s.falling ∧ first ≤ s.lastfalling ∧ first ≤ s.rising ∧ first ≤ s.lastrising →
    first ≤ t.lastpos ∧ first ≤ t.falling ∧ first ≤ t.lastfalling ∧ first ≤ t.rising ∧ first ≤ t.lastrising

/-- R160, R166: from a state with the invariant, a stimulus that decodes can only give a next state, but for a breach of
the sample-order duty (R108), which is exactly a report in RUNNING of a changed level with an index below `lastpos`.
Rests on the spec's own decision D22. -/
def Obligations.NothingElseFails : Prop :=
  ∀ (s : State) (w : Stimulus) (rest : List Input) (i : Instr),
    s.Inv → s.inbox = .stimulus w :: rest → decode w = .ok i →
    (∃ t, step s = .next t ∧ t.inbox = rest) ∨
    (step s = .refused .sampleOrder ∧ s.phase = .running ∧
      ∃ index level, i = .edge index level ∧ level ^^^ s.pol ≠ s.oldpin ∧ index < s.lastpos)

/-! Whole-machine rules. -/

/-- R174: the phase after a step is the phase table's, and reset takes any phase to IDLE; nothing else changes
`PHASE`.
Rests on the spec's own decision D18. -/
def Obligations.PhaseTable : Prop :=
  ∀ s t : State, step s = .next t →
    (s.inbox = [] ∧ t.phase = s.phase) ∨
    (∃ rest, s.inbox = .reset :: rest ∧ t.phase = .idle) ∨
    (∃ w rest i, s.inbox = .stimulus w :: rest ∧ decode w = .ok i ∧ t.phase = phaseAfter i s.sr s.phase)

/-- R80, R81, R111, R112, R174: in a discard cell of the phase table a well-formed stimulus changes no register and
emits nothing.
Rests on the spec's own decision D18. -/
def Obligations.DiscardCells : Prop :=
  ∀ (i : Instr) (s : State), i.wellFormed = true → discards i s.phase = true → exec i s = .next s

/-- R12, R19, R52: in a run no step but a reset changes the configuration or the thresholds.
Rests on the spec's own decisions D17, D18. -/
def Obligations.ConfigurationFixedInARun : Prop :=
  ∀ (s t : State), (s.phase = .armed ∨ s.phase = .running) → (∀ rest, s.inbox ≠ .reset :: rest) → step s = .next t →
    t.pol = s.pol ∧ t.endian = s.endian ∧ t.zt = s.zt ∧ t.ot = s.ot ∧ t.tol = s.tol ∧ t.sr = s.sr ∧
    t.zs = s.zs ∧ t.os = s.os ∧ t.err = s.err

/-- R19, R21: of the stimuli only `start` writes the thresholds and `ERR`.
Rests on the spec's own decision D19. -/
def Obligations.OnlyStartWritesThresholds : Prop :=
  ∀ (i : Instr) (s t : State), i.isStimulus = true → i ≠ .start → exec i s = .next t →
    t.zs = s.zs ∧ t.os = s.os ∧ t.err = s.err

/-- R110, R81: but for the clearing by `start`, only INIT, RISE and FALL, and `edge` through them, write the edge
state.
Rests on the spec's own decision D21. -/
def Obligations.EdgeStateWriters : Prop :=
  ∀ (i : Instr) (s t : State), exec i s = .next t →
    (i ≠ .start ∧ ∀ a b, i ≠ .edge a b ∧ i ≠ .init a b ∧ i ≠ .rise a ∧ i ≠ .fall a) →
    t.oldpin = s.oldpin ∧ t.lastpos = s.lastpos ∧ t.falling = s.falling ∧ t.lastfalling = s.lastfalling ∧
    t.rising = s.rising ∧ t.lastrising = s.lastrising ∧ t.highwidth = s.highwidth ∧ t.lowwidth = s.lowwidth

/-- R49, R50 (a), R100: an `edge` appends to `OUT` none, Bit, Bit then Hex, Leader, or Leader then Word, each ending at
the report's index.
Rests on the spec's own decision D13. -/
def Obligations.EventsOfAnEdge : Prop :=
  ∀ (s t : State) (index : Word) (level : Bit), exec (.edge index level) s = .next t →
    ∃ new : List Event, t.out = s.out ++ new ∧ (∀ e ∈ new, e.endSample = index) ∧
      (new.map (fun e => (e.kind, e.kind == .leader && e.payload == 1)) = [] ∨
       new.map (fun e => (e.kind, e.kind == .leader && e.payload == 1)) = [(.bit, false)] ∨
       new.map (fun e => (e.kind, e.kind == .leader && e.payload == 1)) = [(.bit, false), (.hex, false)] ∨
       new.map (fun e => (e.kind, e.kind == .leader && e.payload == 1)) = [(.leader, false)] ∨
       new.map (fun e => (e.kind, e.kind == .leader && e.payload == 1)) = [(.leader, true), (.word, false)])

/-- R80, R81, R112, R148: no other stimulus emits: `cfgw` and `eos` leave `OUT`, `start` leaves or empties it.
Rests on the spec's own decisions D20, D21. -/
def Obligations.OtherStimuliEmitNothing : Prop :=
  ∀ (i : Instr) (s t : State), i.isStimulus = true → (∀ a b, i ≠ .edge a b) → exec i s = .next t →
    t.out = s.out ∨ (i = .start ∧ t.out = [])

/-- R24: no rule reads `lastfalling`: with another value in it every instruction does the same to everything else. -/
def Obligations.LastfallingIsNeverRead : Prop :=
  ∀ (i : Instr) (s t : State) (x : Word), exec i s = .next t →
    ∃ y, exec i { s with lastfalling := x } = .next { t with lastfalling := y }

/-! Configuration, `start` and THRESH. -/

/-- R80: in IDLE, STOPPED and ERROR a `cfgw` writes its register and nothing else; R13 to R18.
Rests on the spec's own decisions D17, D18. -/
def Obligations.CfgwWritesItsRegister : Prop :=
  ∀ (s : State) (v : Word), (s.phase = .idle ∨ s.phase = .stopped ∨ s.phase = .error) →
    (v.toNat ≤ 1 → exec (.cfgwPol v) s = .next { s with pol := BitVec.ofNat 1 v.toNat }) ∧
    (v.toNat ≤ 1 → exec (.cfgwEnd v) s = .next { s with endian := BitVec.ofNat 1 v.toNat }) ∧
    exec (.cfgwZt v) s = .next { s with zt := v } ∧
    exec (.cfgwOt v) s = .next { s with ot := v } ∧
    (v.toNat ≤ 100 → exec (.cfgwTol v) s = .next { s with tol := BitVec.ofNat 7 v.toNat }) ∧
    exec (.cfgwSr v) s = .next { s with sr := v }

/-- R62: a value outside the register's range is refused, in any phase.
Rests on the spec's own decisions D4, D28. -/
def Obligations.CfgwRefusesReservedValues : Prop :=
  ∀ (s : State) (v : Word),
    (1 < v.toNat → exec (.cfgwPol v) s = .refused (.reserved .value)) ∧
    (1 < v.toNat → exec (.cfgwEnd v) s = .refused (.reserved .value)) ∧
    (100 < v.toNat → exec (.cfgwTol v) s = .refused (.reserved .value))

/-- R81 to R85: a `start` in IDLE, STOPPED or ERROR with a time base clears the run state, computes the thresholds, clears
`ERR` and arms. `TOL` at most 100 is the invariant `ControlInv`.
Rests on the spec's own decisions D2, D18, D21. -/
def Obligations.StartArms : Prop :=
  ∀ s : State, (s.phase = .idle ∨ s.phase = .stopped ∨ s.phase = .error) → s.sr ≠ 0 → s.tol.toNat ≤ 100 →
    exec .start s = .next
      { s with
        oldpin := 0, lastpos := 0, falling := 0, lastfalling := 0, rising := 0, lastrising := 0, highwidth := 0,
        lowwidth := 0, nibValue := 0, nibCount := 0, nibStart := 0, wordValue := 0, wordCount := 0, wordStart := 0,
        out := [], zs := ruleZeroSamples s.sr s.zt s.tol, os := ruleOneSamples s.sr s.ot s.tol,
        err := 0, phase := .armed }

/-- R161, R162: a `start` in IDLE, STOPPED or ERROR with `SR = 0` takes ConfigurationError.
Rests on the spec's own decisions D18, D19. -/
def Obligations.StartWithoutTimeBase : Prop :=
  ∀ s : State, (s.phase = .idle ∨ s.phase = .stopped ∨ s.phase = .error) → s.sr = 0 →
    exec .start s = .next
      { s with
        oldpin := 0, lastpos := 0, falling := 0, lastfalling := 0, rising := 0, lastrising := 0, highwidth := 0,
        lowwidth := 0, nibValue := 0, nibCount := 0, nibStart := 0, wordValue := 0, wordCount := 0, wordStart := 0,
        out := [], zs := 0, os := 0, err := 1, phase := .error }

/-- R163, R164: the way out of ERROR is a non-zero time base and another `start`, which clears `ERR` and arms; before
that ERROR accepts the write and discards reports and `eos`.
Rests on the spec's own decisions D18, D19. -/
def Obligations.WayOutOfError : Prop :=
  ∀ (s : State) (hertz : Word), s.phase = .error → hertz ≠ 0 →
    (∀ index level, exec (.edge index level) s = .next s) ∧ exec .eos s = .next s ∧
    ∃ u t, exec (.cfgwSr hertz) s = .next u ∧ u = { s with sr := hertz } ∧ exec .start u = .next t ∧
      t.phase = .armed ∧ t.err = 0 ∧ t.sr = hertz ∧ t.out = []

/-- R82 to R85: THRESH writes the two thresholds, the floors of the exact quotients, and nothing else.
Rests on the spec's own decision D2. -/
def Obligations.ThreshComputesFloors : Prop :=
  ∀ s : State, s.tol.toNat ≤ 100 →
    exec .thresh s =
      .next { s with zs := ruleZeroSamples s.sr s.zt s.tol, os := ruleOneSamples s.sr s.ot s.tol }

/-- R88: the bounds of the thresholds for 64-bit inputs and a tolerance of at most 100.
Rests on the spec's own decisions D2, D3, D4. -/
def Obligations.ThresholdBounds : Prop :=
  ∀ sr zt ot tol : Nat, sr < 2 ^ 64 → zt < 2 ^ 64 → ot < 2 ^ 64 → tol ≤ 100 →
    0 ≤ zeroSamples sr zt tol ∧ zeroSamples sr zt tol < 2 ^ 110 ∧
    -1 ≤ oneSamples sr ot tol ∧ oneSamples sr ot tol < 2 ^ 109

/-- R90: `ZS < OS` from some sample rate on exactly when `OT * (100 - TOL) > ZT * (100 + TOL)`; when that fails and
neither duration is 0, `ZS > OS` at every sample rate.
Rests on the spec's own decision D2. -/
def Obligations.ThresholdOrder : Prop :=
  ∀ zt ot tol : Nat, tol ≤ 100 →
    ((∃ least, ∀ sr, least ≤ sr → zeroSamples sr zt tol < oneSamples sr ot tol) ↔
      zt * (100 + tol) < ot * (100 - tol)) ∧
    (zt ≠ 0 → ot ≠ 0 → ¬ zt * (100 + tol) < ot * (100 - tol) →
      ∀ sr, oneSamples sr ot tol < zeroSamples sr zt tol)

/-- R90: with the full defaults `ZS < OS` at every sample rate from 17188 Hz up, and not at 17187 Hz.
Rests on the spec's own decision D2. -/
def Obligations.DefaultThresholdOrder : Prop :=
  (∀ sr : Nat, 17188 ≤ sr → zeroSamples sr 400 20 < oneSamples sr 800 20) ∧
  zeroSamples 17187 400 20 = 9 ∧ oneSamples 17187 800 20 = 9

/-- R88, R153: a core with `THR_WIDTH` of 111 bits, 110 and a sign, starts as the normative core does.
Rests on the spec's own decision D3. -/
def Obligations.ThresholdWidthSuffices : Prop :=
  ∀ (s : State) (wordWidth : Option Nat), s.tol.toNat ≤ 100 →
    s.start { wordWidth, thrWidth := some 111 } = exec .start s

/-! The edge tracker. -/

/-- R100, R101, R102: the first report of a run initialises and is not classified.
Rests on the spec's own decisions D8, D9. -/
def Obligations.FirstReportInitialises : Prop :=
  ∀ (s : State) (index : Word) (level : Bit), s.phase = .armed →
    exec (.edge index level) s = .next
      { s with
        oldpin := level ^^^ s.pol, lastpos := index, falling := index, lastfalling := index, rising := index,
        lastrising := index, highwidth := 0, lowwidth := 0, nibStart := index, wordStart := index,
        phase := .running }

/-- R102: INIT. That it is stated without R102's `PHASE = ARMED` is the model's choice (DESIGN CHOICE, log entry 5).
Rests on the spec's own decisions D8, D9. -/
def Obligations.InitResult : Prop :=
  ∀ (s : State) (now : Word) (lvl : Bit),
    exec (.init now lvl) s = .next
      { s with
        oldpin := lvl, lastpos := now, falling := now, lastfalling := now, rising := now, lastrising := now,
        highwidth := 0, lowwidth := 0, nibStart := now, wordStart := now, phase := .running }

/-- R103: a report in RUNNING of an unchanged corrected level does nothing, whatever its index. -/
def Obligations.UnchangedLevelDoesNothing : Prop :=
  ∀ (s : State) (index : Word) (level : Bit), s.phase = .running → level ^^^ s.pol = s.oldpin →
    exec (.edge index level) s = .next s

/-- R108: a report in RUNNING of a changed level with an index below `lastpos` is refused.
Rests on the spec's own decision D22. -/
def Obligations.SampleOrderBreachRefused : Prop :=
  ∀ (s : State) (index : Word) (level : Bit), s.phase = .running → level ^^^ s.pol ≠ s.oldpin →
    index < s.lastpos → exec (.edge index level) s = .refused .sampleOrder

/-- R104, R125 to R129, R145 to R147, R151: FALL, with the pulse an ordinary one, a leadin or a leadout. That it is
stated without R104's `oldpin = 1` and `lvl = 0` is the model's choice (DESIGN CHOICE, log entry 5).
Rests on the spec's own decisions D12, D13. -/
def Obligations.FallResult : Prop :=
  ∀ (s : State) (now : Word), s.rising ≤ now →
    exec (.fall now) s = .next
      (if 2 * s.os ≤ (now.toNat - s.rising.toNat : Nat) then
        if 20 * s.zs ≤ s.lowwidth.toNat ∧ (s.lowwidth.toNat : Int) < 100 * s.zs then
          { s with
            lastfalling := s.falling, falling := now, highwidth := now - s.rising, lastpos := now, oldpin := 0,
            out := s.out ++
              [{ kind := .leader, startSample := s.rising, endSample := now, payload := 1 },
               { kind := .word, startSample := s.wordStart, endSample := now, payload := s.wordValue }] }
        else
          { s with
            lastfalling := s.falling, falling := now, highwidth := now - s.rising, lastpos := now, oldpin := 0,
            out := s.out ++ [{ kind := .leader, startSample := s.rising, endSample := now, payload := 0 }],
            nibValue := 0, nibCount := 0, nibStart := now, wordValue := 0, wordCount := 0, wordStart := now }
      else
        { s with
          lastfalling := s.falling, falling := now, highwidth := now - s.rising, lastpos := now, oldpin := 0 })

/-- R125 to R129: CLASSIFY_HIGH.
Rests on the spec's own decisions D12, D13. -/
def Obligations.ClassifyHighResult : Prop :=
  ∀ (s : State) (now : Word),
    exec (.classifyHigh now) s = .next
      (if 2 * s.os ≤ s.highwidth.toNat then
        if 20 * s.zs ≤ s.lowwidth.toNat ∧ (s.lowwidth.toNat : Int) < 100 * s.zs then
          { s with
            out := s.out ++
              [{ kind := .leader, startSample := s.rising, endSample := now, payload := 1 },
               { kind := .word, startSample := s.wordStart, endSample := now, payload := s.wordValue }] }
        else
          { s with
            out := s.out ++ [{ kind := .leader, startSample := s.rising, endSample := now, payload := 0 }],
            nibValue := 0, nibCount := 0, nibStart := now, wordValue := 0, wordCount := 0, wordStart := now }
      else s)

/-- R104: FALL shifts, records and measures, and ends in CLASSIFY_HIGH; `rising`, `lastrising` and `lowwidth` are not
written. R104 says that FALL runs where `oldpin = 1` and `lvl = 0`; that it is stated without that condition is the
model's choice (DESIGN CHOICE, log entry 5). -/
def Obligations.FallRecordsThenClassifies : Prop :=
  ∀ (s : State) (now : Word), s.rising ≤ now →
    ∃ t,
      exec (.classifyHigh now)
        { s with
          lastfalling := s.falling, falling := now, highwidth := now - s.rising, lastpos := now, oldpin := 0 } = .next t ∧
      exec (.fall now) s = .next t ∧ t.rising = s.rising ∧ t.lastrising = s.lastrising ∧ t.lowwidth = s.lowwidth

/-- R105: RISE shifts, records and measures, and ends in CLASSIFY_LOW; `falling`, `lastfalling` and `highwidth` are not
written. R105 says that RISE runs where `oldpin = 0` and `lvl = 1`; that it is stated without that condition is the
model's choice (DESIGN CHOICE, log entry 5). -/
def Obligations.RiseResult : Prop :=
  ∀ (s : State) (now : Word), s.falling ≤ now →
    ∃ t,
      exec (.classifyLow now)
        { s with
          lastrising := s.rising, rising := now, lowwidth := now - s.falling, lastpos := now, oldpin := 1 } = .next t ∧
      exec (.rise now) s = .next t ∧ t.falling = s.falling ∧ t.lastfalling = s.lastfalling ∧ t.highwidth = s.highwidth

/-- R100, R106: in RUNNING a changed level is taken as FALL when `oldpin` is 1 and as RISE when it is 0; R34 (d) is the
premise that no run breaks. -/
def Obligations.ChangedLevelTakesTheEdge : Prop :=
  ∀ (s : State) (index : Word) (level : Bit), s.phase = .running → s.EdgeInv → s.lastpos ≤ index →
    (s.oldpin = 1 → level ^^^ s.pol = 0 →
      ∃ t, exec (.fall index) s = .next t ∧ exec (.edge index level) s = .next t) ∧
    (s.oldpin = 0 → level ^^^ s.pol = 1 →
      ∃ t, exec (.rise index) s = .next t ∧ exec (.edge index level) s = .next t)

/-- R105, R120, R124, R140: what a rising edge leaves unchanged, and the edge state it writes, whatever it decides. That
it is stated without R105's `oldpin = 0` and `lvl = 1` is the model's choice (DESIGN CHOICE, log entry 5). -/
def Obligations.RiseFrame : Prop :=
  ∀ (s : State) (now : Word), s.falling ≤ now →
    ∃ t, exec (.rise now) s = .next t ∧
      t.pol = s.pol ∧ t.endian = s.endian ∧ t.zt = s.zt ∧ t.ot = s.ot ∧ t.tol = s.tol ∧ t.sr = s.sr ∧
      t.zs = s.zs ∧ t.os = s.os ∧ t.phase = s.phase ∧ t.err = s.err ∧
      t.oldpin = 1 ∧ t.lastpos = now ∧ t.falling = s.falling ∧ t.lastfalling = s.lastfalling ∧
      t.rising = now ∧ t.lastrising = s.rising ∧ t.highwidth = s.highwidth ∧
      t.lowwidth.toNat = now.toNat - s.falling.toNat ∧ t.wordStart = s.wordStart ∧ t.inbox = s.inbox ∧
      t.wordCount ≤ s.wordCount + 1 ∧ (t.wordCount = s.wordCount → t.out = s.out ∧ t.wordValue = s.wordValue ∧
        t.nibValue = s.nibValue ∧ t.nibCount = s.nibCount ∧ t.nibStart = s.nibStart)

/-- R112: `eos` in ARMED or RUNNING writes `PHASE` only, and in any other phase is discarded.
Rests on the spec's own decisions D18, D20. -/
def Obligations.EosStops : Prop :=
  ∀ s : State,
    ((s.phase = .armed ∨ s.phase = .running) → exec .eos s = .next { s with phase := .stopped }) ∧
    ((s.phase = .idle ∨ s.phase = .stopped ∨ s.phase = .error) → exec .eos s = .next s)

/-! The bit classifier. -/

/-- R120 to R122, R124: a gap that decides a bit emits the Bit event and pushes the bit. -/
def Obligations.ClassifyLowDecides : Prop :=
  ∀ (s : State) (now : Word) (b : Bit),
    ((b = 1 ∧ s.zs < s.lowwidth.toNat ∧ 2 * (s.lowwidth.toNat : Int) ≤ 3 * s.os ∧
        (s.highwidth.toNat : Int) ≤ 2 * s.os) ∨
      (b = 0 ∧ (s.lowwidth.toNat : Int) < s.zs)) →
    ∃ t,
      exec (.pushBit b now)
        { s with
          out := s.out ++
            [{ kind := .bit, startSample := s.lastrising, endSample := s.rising, payload := b.toNat }] } = .next t ∧
      exec (.classifyLow now) s = .next t

/-- R123, R165: the gaps that decide nothing, as R123 lists them, change nothing. -/
def Obligations.ClassifyLowNoDecision : Prop :=
  ∀ (s : State) (now : Word),
    ((s.lowwidth.toNat : Int) = s.zs ∨
      (s.zs < s.lowwidth.toNat ∧ 3 * s.os < 2 * (s.lowwidth.toNat : Int)) ∨
      (s.zs < s.lowwidth.toNat ∧ 2 * s.os < (s.highwidth.toNat : Int))) →
    exec (.classifyLow now) s = .next s

/-- R134: the gap after a pulse longer than `2 * OS` is never a bit 1. -/
def Obligations.NoOneAfterALongPulse : Prop :=
  ∀ (s t : State) (index : Word) (level : Bit), 2 * s.os < (s.highwidth.toNat : Int) → s.oldpin = 0 →
    exec (.edge index level) s = .next t →
    ∀ e ∈ s.newEvents t, e.kind = .bit → e.payload = 0

/-- R91: with `ZS = 0` an `edge` emits no bit 0, no leadout and no Word. -/
def Obligations.ZeroThresholdZero : Prop :=
  ∀ (s t : State) (index : Word) (level : Bit), s.zs = 0 → exec (.edge index level) s = .next t →
    ∀ e ∈ s.newEvents t, e.kind ≠ .word ∧ (e.kind = .bit → e.payload = 1) ∧ (e.kind = .leader → e.payload = 0)

/-- R92: with `OS <= 0` an `edge` emits no bit 1, and every falling edge is a leader. -/
def Obligations.OneThresholdNotPositive : Prop :=
  ∀ (s t : State) (index : Word) (level : Bit), s.os ≤ 0 → 0 ≤ s.zs → s.phase = .running →
    exec (.edge index level) s = .next t →
    (∀ e ∈ s.newEvents t, e.kind = .bit → e.payload = 0) ∧
    (s.oldpin = 1 → level ^^^ s.pol = 0 → (s.newEvents t).head?.map (·.kind) = some .leader)

/-- R89: `OS = -1` does to an `edge` exactly what `OS = 0` does. -/
def Obligations.MinusOneActsAsZero : Prop :=
  ∀ (s t : State) (index : Word) (level : Bit), 0 ≤ s.zs → s.os = 0 → exec (.edge index level) s = .next t →
    exec (.edge index level) { s with os := -1 } = .next { t with os := -1 }

/-! The accumulator. -/

/-- R140, R141, R143, R144, R149: PUSH_BIT in little order, as numbers: the new bit is the lowest. The premise is R34 (b),
which no run breaks. -/
def Obligations.PushBitLittle : Prop :=
  ∀ (s : State) (b : Bit) (now : Word), s.endian = 0 → s.nibValue.toNat < 2 ^ s.nibCount.toNat →
    exec (.pushBit b now) s = .next
      (if s.nibCount = 3 then
        { s with
          nibValue := 0, nibCount := 0, nibStart := now,
          wordValue := 2 * s.wordValue + b.toNat, wordCount := s.wordCount + 1,
          out := s.out ++
            [{ kind := .hex, startSample := s.nibStart, endSample := now,
               payload := 2 * s.nibValue.toNat + b.toNat }] }
      else
        { s with
          nibValue := BitVec.ofNat 4 (2 * s.nibValue.toNat + b.toNat), nibCount := s.nibCount + 1,
          wordValue := 2 * s.wordValue + b.toNat, wordCount := s.wordCount + 1 })

/-- R140, R142 to R144, R149: PUSH_BIT in big order, as numbers: the new bit is the highest. The premises are R34 (b),
which no run breaks. -/
def Obligations.PushBitBig : Prop :=
  ∀ (s : State) (b : Bit) (now : Word), s.endian = 1 → s.nibValue.toNat < 2 ^ s.nibCount.toNat →
    s.wordValue < 2 ^ s.wordCount →
    exec (.pushBit b now) s = .next
      (if s.nibCount = 3 then
        { s with
          nibValue := 0, nibCount := 0, nibStart := now,
          wordValue := s.wordValue + b.toNat * 2 ^ s.wordCount, wordCount := s.wordCount + 1,
          out := s.out ++
            [{ kind := .hex, startSample := s.nibStart, endSample := now,
               payload := s.nibValue.toNat + b.toNat * 2 ^ s.nibCount.toNat }] }
      else
        { s with
          nibValue := BitVec.ofNat 4 (s.nibValue.toNat + b.toNat * 2 ^ s.nibCount.toNat), nibCount := s.nibCount + 1,
          wordValue := s.wordValue + b.toNat * 2 ^ s.wordCount, wordCount := s.wordCount + 1 })

/-- R145: ACC_RESET.
Rests on the spec's own decision D12. -/
def Obligations.AccResetResult : Prop :=
  ∀ (s : State) (now : Word),
    exec (.accReset now) s = .next
      { s with nibValue := 0, nibCount := 0, nibStart := now, wordValue := 0, wordCount := 0, wordStart := now }

/-- R146: EMIT_WORD emits the word without condition and writes no register, and it is what a leadout runs after its
Leader event. -/
def Obligations.EmitWordResult : Prop :=
  ∀ (s : State) (now : Word),
    exec (.emitWord now) s = .next
      { s with
        out := s.out ++
          [{ kind := .word, startSample := s.wordStart, endSample := now, payload := s.wordValue }] } ∧
    (2 * s.os ≤ s.highwidth.toNat → 20 * s.zs ≤ s.lowwidth.toNat → (s.lowwidth.toNat : Int) < 100 * s.zs →
      ∃ leader : Event, leader.kind = .leader ∧
        exec (.classifyHigh now) s = exec (.emitWord now) { s with out := s.out ++ [leader] })

/-- R141, R143, R145, R152, R153, little order: after an accumulator reset any list of bits is kept whole, the first bit
highest; every fourth bit gives a Hex event, and the word is the Hex digits from the most significant down followed by
the unfinished nibble. -/
def Obligations.BitsMakeTheWordLittle : Prop :=
  ∀ (s : State) (at_ : Word) (bits : List (Bit × Word)), s.endian = 0 →
    ∃ s0 t hexes, exec (.accReset at_) s = .next s0 ∧ pushAll bits s0 = .next t ∧ t.out = s.out ++ hexes ∧
      t.wordCount = bits.length ∧
      t.wordValue = Nat.ofDigits 2 (bits.map (fun b => b.1.toNat)).reverse ∧
      hexes.length = bits.length / 4 ∧ (∀ e ∈ hexes, e.kind = .hex ∧ e.payload < 16) ∧
      t.wordValue =
        Nat.ofDigits 16 (hexes.map (·.payload)).reverse * 2 ^ t.nibCount.toNat + t.nibValue.toNat

/-- R142, R143, R145, R152, R153, big order: as `BitsMakeTheWordLittle`, with the first bit lowest and the Hex digits from
the least significant up. -/
def Obligations.BitsMakeTheWordBig : Prop :=
  ∀ (s : State) (at_ : Word) (bits : List (Bit × Word)), s.endian = 1 →
    ∃ s0 t hexes, exec (.accReset at_) s = .next s0 ∧ pushAll bits s0 = .next t ∧ t.out = s.out ++ hexes ∧
      t.wordCount = bits.length ∧
      t.wordValue = Nat.ofDigits 2 (bits.map (fun b => b.1.toNat)) ∧
      hexes.length = bits.length / 4 ∧ (∀ e ∈ hexes, e.kind = .hex ∧ e.payload < 16) ∧
      t.wordValue = Nat.ofDigits 16 (hexes.map (·.payload)) + t.nibValue.toNat * 16 ^ hexes.length

/-- R153: a core with a finite `WORD_WIDTH` pushes as the normative core does up to that width, and the push beyond is a
fault.
Rests on the spec's own decision D25. -/
def Obligations.FiniteWordWidth : Prop :=
  ∀ (s : State) (n : Nat) (thrWidth : Option Nat) (b : Bit) (now : Word),
    (s.wordCount < n → s.pushBit { wordWidth := some n, thrWidth } b now = exec (.pushBit b now) s) ∧
    (n ≤ s.wordCount → s.pushBit { wordWidth := some n, thrWidth } b now = .fault .wordOverflow)

/-! Texts and front end. -/

/-- R150, the Word payload: "0x" and then lowercase hexadecimal digits whose value is the word, no leading zero but for
the word 0, which is "0x0".
Rests on the spec's own decision D14. -/
def Obligations.WordText : Prop :=
  ∀ e : Event, e.kind = .word →
    ∃ c digits, e.textChars = '0' :: 'x' :: c :: digits ∧
      (∀ d ∈ c :: digits, ('0' ≤ d ∧ d ≤ '9') ∨ ('a' ≤ d ∧ d ≤ 'f')) ∧
      (c :: digits).foldl (fun v d => 16 * v + hexValue d) 0 = e.payload ∧
      (c = '0' → e.payload = 0 ∧ digits = [])

/-- R150, the other payloads. -/
def Obligations.PayloadTexts : Prop :=
  ∀ a b : Word,
    Event.textChars { kind := .bit, startSample := a, endSample := b, payload := 0 } = ['0'] ∧
    Event.textChars { kind := .bit, startSample := a, endSample := b, payload := 1 } = ['1'] ∧
    Event.textChars { kind := .leader, startSample := a, endSample := b, payload := 0 } =
      ['l', 'e', 'a', 'd', 'i', 'n'] ∧
    Event.textChars { kind := .leader, startSample := a, endSample := b, payload := 1 } =
      ['l', 'e', 'a', 'd', 'o', 'u', 't'] ∧
    (List.range 16).map
        (fun n => Event.textChars { kind := .hex, startSample := a, endSample := b, payload := n }) =
      [['0'], ['1'], ['2'], ['3'], ['4'], ['5'], ['6'], ['7'], ['8'], ['9'], ['a'], ['b'], ['c'], ['d'], ['e'], ['f']]

/-- R69, R113: the edge reports of a `wave` are those of the raw-sample front end on the samples it describes.
Rests on the spec's own decisions D27, D29. -/
def Obligations.WaveIsTheFrontEnd : Prop :=
  ∀ (first : Nat) (runs : List Run), (∀ r ∈ runs, 0 < r.2) →
    waveReports first runs = sampleReports first (samplesOf runs)

/-- R68: every stimulus has a written form, and reading it gives the stimulus back.
Rests on the spec's own decision D29. -/
def Obligations.WrittenFormReadsBack : Prop :=
  ∀ i : Instr, i.isStimulus = true → ∃ line, written i = some line ∧ readLine line = some (some i)
end

