-- ==== Sys2Proof/Laws/State.lean ====
section
/-! SUPPORT. One lemma per field of State per named update, so that no proof unfolds a record update. -/

namespace Sys2Proof.Machine.State

section

variable (s : State) (rest : List Input)

@[simp] theorem withInbox_pol : (s.withInbox rest).pol = s.pol := rfl
@[simp] theorem withInbox_endian : (s.withInbox rest).endian = s.endian := rfl
@[simp] theorem withInbox_zt : (s.withInbox rest).zt = s.zt := rfl
@[simp] theorem withInbox_ot : (s.withInbox rest).ot = s.ot := rfl
@[simp] theorem withInbox_tol : (s.withInbox rest).tol = s.tol := rfl
@[simp] theorem withInbox_sr : (s.withInbox rest).sr = s.sr := rfl
@[simp] theorem withInbox_zs : (s.withInbox rest).zs = s.zs := rfl
@[simp] theorem withInbox_os : (s.withInbox rest).os = s.os := rfl
@[simp] theorem withInbox_phase : (s.withInbox rest).phase = s.phase := rfl
@[simp] theorem withInbox_err : (s.withInbox rest).err = s.err := rfl
@[simp] theorem withInbox_oldpin : (s.withInbox rest).oldpin = s.oldpin := rfl
@[simp] theorem withInbox_lastpos : (s.withInbox rest).lastpos = s.lastpos := rfl
@[simp] theorem withInbox_falling : (s.withInbox rest).falling = s.falling := rfl
@[simp] theorem withInbox_lastfalling : (s.withInbox rest).lastfalling = s.lastfalling := rfl
@[simp] theorem withInbox_rising : (s.withInbox rest).rising = s.rising := rfl
@[simp] theorem withInbox_lastrising : (s.withInbox rest).lastrising = s.lastrising := rfl
@[simp] theorem withInbox_highwidth : (s.withInbox rest).highwidth = s.highwidth := rfl
@[simp] theorem withInbox_lowwidth : (s.withInbox rest).lowwidth = s.lowwidth := rfl
@[simp] theorem withInbox_nibValue : (s.withInbox rest).nibValue = s.nibValue := rfl
@[simp] theorem withInbox_nibCount : (s.withInbox rest).nibCount = s.nibCount := rfl
@[simp] theorem withInbox_nibStart : (s.withInbox rest).nibStart = s.nibStart := rfl
@[simp] theorem withInbox_wordValue : (s.withInbox rest).wordValue = s.wordValue := rfl
@[simp] theorem withInbox_wordCount : (s.withInbox rest).wordCount = s.wordCount := rfl
@[simp] theorem withInbox_wordStart : (s.withInbox rest).wordStart = s.wordStart := rfl
@[simp] theorem withInbox_out : (s.withInbox rest).out = s.out := rfl
@[simp] theorem withInbox_inbox : (s.withInbox rest).inbox = rest := rfl

end

section

variable (s : State) (kind : EventKind) (a b : Word) (n : Nat)

@[simp] theorem emit_pol : (s.emit kind a b n).pol = s.pol := rfl
@[simp] theorem emit_endian : (s.emit kind a b n).endian = s.endian := rfl
@[simp] theorem emit_zt : (s.emit kind a b n).zt = s.zt := rfl
@[simp] theorem emit_ot : (s.emit kind a b n).ot = s.ot := rfl
@[simp] theorem emit_tol : (s.emit kind a b n).tol = s.tol := rfl
@[simp] theorem emit_sr : (s.emit kind a b n).sr = s.sr := rfl
@[simp] theorem emit_zs : (s.emit kind a b n).zs = s.zs := rfl
@[simp] theorem emit_os : (s.emit kind a b n).os = s.os := rfl
@[simp] theorem emit_phase : (s.emit kind a b n).phase = s.phase := rfl
@[simp] theorem emit_err : (s.emit kind a b n).err = s.err := rfl
@[simp] theorem emit_oldpin : (s.emit kind a b n).oldpin = s.oldpin := rfl
@[simp] theorem emit_lastpos : (s.emit kind a b n).lastpos = s.lastpos := rfl
@[simp] theorem emit_falling : (s.emit kind a b n).falling = s.falling := rfl
@[simp] theorem emit_lastfalling : (s.emit kind a b n).lastfalling = s.lastfalling := rfl
@[simp] theorem emit_rising : (s.emit kind a b n).rising = s.rising := rfl
@[simp] theorem emit_lastrising : (s.emit kind a b n).lastrising = s.lastrising := rfl
@[simp] theorem emit_highwidth : (s.emit kind a b n).highwidth = s.highwidth := rfl
@[simp] theorem emit_lowwidth : (s.emit kind a b n).lowwidth = s.lowwidth := rfl
@[simp] theorem emit_nibValue : (s.emit kind a b n).nibValue = s.nibValue := rfl
@[simp] theorem emit_nibCount : (s.emit kind a b n).nibCount = s.nibCount := rfl
@[simp] theorem emit_nibStart : (s.emit kind a b n).nibStart = s.nibStart := rfl
@[simp] theorem emit_wordValue : (s.emit kind a b n).wordValue = s.wordValue := rfl
@[simp] theorem emit_wordCount : (s.emit kind a b n).wordCount = s.wordCount := rfl
@[simp] theorem emit_wordStart : (s.emit kind a b n).wordStart = s.wordStart := rfl
@[simp] theorem emit_out :
    (s.emit kind a b n).out =
      s.out ++ [{ kind, startSample := a, endSample := b, payload := n }] := rfl
@[simp] theorem emit_inbox : (s.emit kind a b n).inbox = s.inbox := rfl

end

section

variable (s : State)

@[simp] theorem clearRun_pol : s.clearRun.pol = s.pol := rfl
@[simp] theorem clearRun_endian : s.clearRun.endian = s.endian := rfl
@[simp] theorem clearRun_zt : s.clearRun.zt = s.zt := rfl
@[simp] theorem clearRun_ot : s.clearRun.ot = s.ot := rfl
@[simp] theorem clearRun_tol : s.clearRun.tol = s.tol := rfl
@[simp] theorem clearRun_sr : s.clearRun.sr = s.sr := rfl
@[simp] theorem clearRun_zs : s.clearRun.zs = s.zs := rfl
@[simp] theorem clearRun_os : s.clearRun.os = s.os := rfl
@[simp] theorem clearRun_phase : s.clearRun.phase = s.phase := rfl
@[simp] theorem clearRun_err : s.clearRun.err = s.err := rfl
@[simp] theorem clearRun_oldpin : s.clearRun.oldpin = 0 := rfl
@[simp] theorem clearRun_lastpos : s.clearRun.lastpos = 0 := rfl
@[simp] theorem clearRun_falling : s.clearRun.falling = 0 := rfl
@[simp] theorem clearRun_lastfalling : s.clearRun.lastfalling = 0 := rfl
@[simp] theorem clearRun_rising : s.clearRun.rising = 0 := rfl
@[simp] theorem clearRun_lastrising : s.clearRun.lastrising = 0 := rfl
@[simp] theorem clearRun_highwidth : s.clearRun.highwidth = 0 := rfl
@[simp] theorem clearRun_lowwidth : s.clearRun.lowwidth = 0 := rfl
@[simp] theorem clearRun_nibValue : s.clearRun.nibValue = 0 := rfl
@[simp] theorem clearRun_nibCount : s.clearRun.nibCount = 0 := rfl
@[simp] theorem clearRun_nibStart : s.clearRun.nibStart = 0 := rfl
@[simp] theorem clearRun_wordValue : s.clearRun.wordValue = 0 := rfl
@[simp] theorem clearRun_wordCount : s.clearRun.wordCount = 0 := rfl
@[simp] theorem clearRun_wordStart : s.clearRun.wordStart = 0 := rfl
@[simp] theorem clearRun_out : s.clearRun.out = [] := rfl
@[simp] theorem clearRun_inbox : s.clearRun.inbox = s.inbox := rfl

end

section

variable (s : State)

@[simp] theorem raiseConfigurationError_pol : s.raiseConfigurationError.pol = s.pol := rfl
@[simp] theorem raiseConfigurationError_endian : s.raiseConfigurationError.endian = s.endian := rfl
@[simp] theorem raiseConfigurationError_zt : s.raiseConfigurationError.zt = s.zt := rfl
@[simp] theorem raiseConfigurationError_ot : s.raiseConfigurationError.ot = s.ot := rfl
@[simp] theorem raiseConfigurationError_tol : s.raiseConfigurationError.tol = s.tol := rfl
@[simp] theorem raiseConfigurationError_sr : s.raiseConfigurationError.sr = s.sr := rfl
@[simp] theorem raiseConfigurationError_zs : s.raiseConfigurationError.zs = 0 := rfl
@[simp] theorem raiseConfigurationError_os : s.raiseConfigurationError.os = 0 := rfl
@[simp] theorem raiseConfigurationError_phase : s.raiseConfigurationError.phase = .error := rfl
@[simp] theorem raiseConfigurationError_err : s.raiseConfigurationError.err = 1 := rfl
@[simp] theorem raiseConfigurationError_oldpin : s.raiseConfigurationError.oldpin = s.oldpin := rfl
@[simp] theorem raiseConfigurationError_lastpos : s.raiseConfigurationError.lastpos = s.lastpos := rfl
@[simp] theorem raiseConfigurationError_falling : s.raiseConfigurationError.falling = s.falling := rfl
@[simp] theorem raiseConfigurationError_lastfalling : s.raiseConfigurationError.lastfalling = s.lastfalling := rfl
@[simp] theorem raiseConfigurationError_rising : s.raiseConfigurationError.rising = s.rising := rfl
@[simp] theorem raiseConfigurationError_lastrising : s.raiseConfigurationError.lastrising = s.lastrising := rfl
@[simp] theorem raiseConfigurationError_highwidth : s.raiseConfigurationError.highwidth = s.highwidth := rfl
@[simp] theorem raiseConfigurationError_lowwidth : s.raiseConfigurationError.lowwidth = s.lowwidth := rfl
@[simp] theorem raiseConfigurationError_nibValue : s.raiseConfigurationError.nibValue = s.nibValue := rfl
@[simp] theorem raiseConfigurationError_nibCount : s.raiseConfigurationError.nibCount = s.nibCount := rfl
@[simp] theorem raiseConfigurationError_nibStart : s.raiseConfigurationError.nibStart = s.nibStart := rfl
@[simp] theorem raiseConfigurationError_wordValue : s.raiseConfigurationError.wordValue = s.wordValue := rfl
@[simp] theorem raiseConfigurationError_wordCount : s.raiseConfigurationError.wordCount = s.wordCount := rfl
@[simp] theorem raiseConfigurationError_wordStart : s.raiseConfigurationError.wordStart = s.wordStart := rfl
@[simp] theorem raiseConfigurationError_out : s.raiseConfigurationError.out = s.out := rfl
@[simp] theorem raiseConfigurationError_inbox : s.raiseConfigurationError.inbox = s.inbox := rfl

end

section

variable (s : State)

@[simp] theorem arm_pol : s.arm.pol = s.pol := rfl
@[simp] theorem arm_endian : s.arm.endian = s.endian := rfl
@[simp] theorem arm_zt : s.arm.zt = s.zt := rfl
@[simp] theorem arm_ot : s.arm.ot = s.ot := rfl
@[simp] theorem arm_tol : s.arm.tol = s.tol := rfl
@[simp] theorem arm_sr : s.arm.sr = s.sr := rfl
@[simp] theorem arm_zs : s.arm.zs = s.zs := rfl
@[simp] theorem arm_os : s.arm.os = s.os := rfl
@[simp] theorem arm_phase : s.arm.phase = .armed := rfl
@[simp] theorem arm_err : s.arm.err = 0 := rfl
@[simp] theorem arm_oldpin : s.arm.oldpin = s.oldpin := rfl
@[simp] theorem arm_lastpos : s.arm.lastpos = s.lastpos := rfl
@[simp] theorem arm_falling : s.arm.falling = s.falling := rfl
@[simp] theorem arm_lastfalling : s.arm.lastfalling = s.lastfalling := rfl
@[simp] theorem arm_rising : s.arm.rising = s.rising := rfl
@[simp] theorem arm_lastrising : s.arm.lastrising = s.lastrising := rfl
@[simp] theorem arm_highwidth : s.arm.highwidth = s.highwidth := rfl
@[simp] theorem arm_lowwidth : s.arm.lowwidth = s.lowwidth := rfl
@[simp] theorem arm_nibValue : s.arm.nibValue = s.nibValue := rfl
@[simp] theorem arm_nibCount : s.arm.nibCount = s.nibCount := rfl
@[simp] theorem arm_nibStart : s.arm.nibStart = s.nibStart := rfl
@[simp] theorem arm_wordValue : s.arm.wordValue = s.wordValue := rfl
@[simp] theorem arm_wordCount : s.arm.wordCount = s.wordCount := rfl
@[simp] theorem arm_wordStart : s.arm.wordStart = s.wordStart := rfl
@[simp] theorem arm_out : s.arm.out = s.out := rfl
@[simp] theorem arm_inbox : s.arm.inbox = s.inbox := rfl

end

section

variable (s : State) (b : Bit)

@[simp] theorem shiftIn_pol : (s.shiftIn b).pol = s.pol := rfl
@[simp] theorem shiftIn_endian : (s.shiftIn b).endian = s.endian := rfl
@[simp] theorem shiftIn_zt : (s.shiftIn b).zt = s.zt := rfl
@[simp] theorem shiftIn_ot : (s.shiftIn b).ot = s.ot := rfl
@[simp] theorem shiftIn_tol : (s.shiftIn b).tol = s.tol := rfl
@[simp] theorem shiftIn_sr : (s.shiftIn b).sr = s.sr := rfl
@[simp] theorem shiftIn_zs : (s.shiftIn b).zs = s.zs := rfl
@[simp] theorem shiftIn_os : (s.shiftIn b).os = s.os := rfl
@[simp] theorem shiftIn_phase : (s.shiftIn b).phase = s.phase := rfl
@[simp] theorem shiftIn_err : (s.shiftIn b).err = s.err := rfl
@[simp] theorem shiftIn_oldpin : (s.shiftIn b).oldpin = s.oldpin := rfl
@[simp] theorem shiftIn_lastpos : (s.shiftIn b).lastpos = s.lastpos := rfl
@[simp] theorem shiftIn_falling : (s.shiftIn b).falling = s.falling := rfl
@[simp] theorem shiftIn_lastfalling : (s.shiftIn b).lastfalling = s.lastfalling := rfl
@[simp] theorem shiftIn_rising : (s.shiftIn b).rising = s.rising := rfl
@[simp] theorem shiftIn_lastrising : (s.shiftIn b).lastrising = s.lastrising := rfl
@[simp] theorem shiftIn_highwidth : (s.shiftIn b).highwidth = s.highwidth := rfl
@[simp] theorem shiftIn_lowwidth : (s.shiftIn b).lowwidth = s.lowwidth := rfl
@[simp] theorem shiftIn_nibValue : (s.shiftIn b).nibValue = pushNibble s.endian b s.nibCount s.nibValue := rfl
@[simp] theorem shiftIn_nibCount : (s.shiftIn b).nibCount = s.nibCount + 1 := rfl
@[simp] theorem shiftIn_nibStart : (s.shiftIn b).nibStart = s.nibStart := rfl
@[simp] theorem shiftIn_wordValue : (s.shiftIn b).wordValue = pushWord s.endian b s.wordCount s.wordValue := rfl
@[simp] theorem shiftIn_wordCount : (s.shiftIn b).wordCount = s.wordCount + 1 := rfl
@[simp] theorem shiftIn_wordStart : (s.shiftIn b).wordStart = s.wordStart := rfl
@[simp] theorem shiftIn_out : (s.shiftIn b).out = s.out := rfl
@[simp] theorem shiftIn_inbox : (s.shiftIn b).inbox = s.inbox := rfl

end

section

variable (s : State) (now : Word)

@[simp] theorem completeNibble_pol : (s.completeNibble now).pol = s.pol := rfl
@[simp] theorem completeNibble_endian : (s.completeNibble now).endian = s.endian := rfl
@[simp] theorem completeNibble_zt : (s.completeNibble now).zt = s.zt := rfl
@[simp] theorem completeNibble_ot : (s.completeNibble now).ot = s.ot := rfl
@[simp] theorem completeNibble_tol : (s.completeNibble now).tol = s.tol := rfl
@[simp] theorem completeNibble_sr : (s.completeNibble now).sr = s.sr := rfl
@[simp] theorem completeNibble_zs : (s.completeNibble now).zs = s.zs := rfl
@[simp] theorem completeNibble_os : (s.completeNibble now).os = s.os := rfl
@[simp] theorem completeNibble_phase : (s.completeNibble now).phase = s.phase := rfl
@[simp] theorem completeNibble_err : (s.completeNibble now).err = s.err := rfl
@[simp] theorem completeNibble_oldpin : (s.completeNibble now).oldpin = s.oldpin := rfl
@[simp] theorem completeNibble_lastpos : (s.completeNibble now).lastpos = s.lastpos := rfl
@[simp] theorem completeNibble_falling : (s.completeNibble now).falling = s.falling := rfl
@[simp] theorem completeNibble_lastfalling : (s.completeNibble now).lastfalling = s.lastfalling := rfl
@[simp] theorem completeNibble_rising : (s.completeNibble now).rising = s.rising := rfl
@[simp] theorem completeNibble_lastrising : (s.completeNibble now).lastrising = s.lastrising := rfl
@[simp] theorem completeNibble_highwidth : (s.completeNibble now).highwidth = s.highwidth := rfl
@[simp] theorem completeNibble_lowwidth : (s.completeNibble now).lowwidth = s.lowwidth := rfl
@[simp] theorem completeNibble_nibValue : (s.completeNibble now).nibValue = 0 := rfl
@[simp] theorem completeNibble_nibCount : (s.completeNibble now).nibCount = 0 := rfl
@[simp] theorem completeNibble_nibStart : (s.completeNibble now).nibStart = now := rfl
@[simp] theorem completeNibble_wordValue : (s.completeNibble now).wordValue = s.wordValue := rfl
@[simp] theorem completeNibble_wordCount : (s.completeNibble now).wordCount = s.wordCount := rfl
@[simp] theorem completeNibble_wordStart : (s.completeNibble now).wordStart = s.wordStart := rfl
@[simp] theorem completeNibble_out :
    (s.completeNibble now).out =
      s.out ++ [{ kind := .hex, startSample := s.nibStart, endSample := now, payload := s.nibValue.toNat }] := rfl
@[simp] theorem completeNibble_inbox : (s.completeNibble now).inbox = s.inbox := rfl

end

section

variable (s : State) (now : Word)

@[simp] theorem accReset_pol : (s.accReset now).pol = s.pol := rfl
@[simp] theorem accReset_endian : (s.accReset now).endian = s.endian := rfl
@[simp] theorem accReset_zt : (s.accReset now).zt = s.zt := rfl
@[simp] theorem accReset_ot : (s.accReset now).ot = s.ot := rfl
@[simp] theorem accReset_tol : (s.accReset now).tol = s.tol := rfl
@[simp] theorem accReset_sr : (s.accReset now).sr = s.sr := rfl
@[simp] theorem accReset_zs : (s.accReset now).zs = s.zs := rfl
@[simp] theorem accReset_os : (s.accReset now).os = s.os := rfl
@[simp] theorem accReset_phase : (s.accReset now).phase = s.phase := rfl
@[simp] theorem accReset_err : (s.accReset now).err = s.err := rfl
@[simp] theorem accReset_oldpin : (s.accReset now).oldpin = s.oldpin := rfl
@[simp] theorem accReset_lastpos : (s.accReset now).lastpos = s.lastpos := rfl
@[simp] theorem accReset_falling : (s.accReset now).falling = s.falling := rfl
@[simp] theorem accReset_lastfalling : (s.accReset now).lastfalling = s.lastfalling := rfl
@[simp] theorem accReset_rising : (s.accReset now).rising = s.rising := rfl
@[simp] theorem accReset_lastrising : (s.accReset now).lastrising = s.lastrising := rfl
@[simp] theorem accReset_highwidth : (s.accReset now).highwidth = s.highwidth := rfl
@[simp] theorem accReset_lowwidth : (s.accReset now).lowwidth = s.lowwidth := rfl
@[simp] theorem accReset_nibValue : (s.accReset now).nibValue = 0 := rfl
@[simp] theorem accReset_nibCount : (s.accReset now).nibCount = 0 := rfl
@[simp] theorem accReset_nibStart : (s.accReset now).nibStart = now := rfl
@[simp] theorem accReset_wordValue : (s.accReset now).wordValue = 0 := rfl
@[simp] theorem accReset_wordCount : (s.accReset now).wordCount = 0 := rfl
@[simp] theorem accReset_wordStart : (s.accReset now).wordStart = now := rfl
@[simp] theorem accReset_out : (s.accReset now).out = s.out := rfl
@[simp] theorem accReset_inbox : (s.accReset now).inbox = s.inbox := rfl

end

section

variable (s : State) (now : Word)

@[simp] theorem emitWord_pol : (s.emitWord now).pol = s.pol := rfl
@[simp] theorem emitWord_endian : (s.emitWord now).endian = s.endian := rfl
@[simp] theorem emitWord_zt : (s.emitWord now).zt = s.zt := rfl
@[simp] theorem emitWord_ot : (s.emitWord now).ot = s.ot := rfl
@[simp] theorem emitWord_tol : (s.emitWord now).tol = s.tol := rfl
@[simp] theorem emitWord_sr : (s.emitWord now).sr = s.sr := rfl
@[simp] theorem emitWord_zs : (s.emitWord now).zs = s.zs := rfl
@[simp] theorem emitWord_os : (s.emitWord now).os = s.os := rfl
@[simp] theorem emitWord_phase : (s.emitWord now).phase = s.phase := rfl
@[simp] theorem emitWord_err : (s.emitWord now).err = s.err := rfl
@[simp] theorem emitWord_oldpin : (s.emitWord now).oldpin = s.oldpin := rfl
@[simp] theorem emitWord_lastpos : (s.emitWord now).lastpos = s.lastpos := rfl
@[simp] theorem emitWord_falling : (s.emitWord now).falling = s.falling := rfl
@[simp] theorem emitWord_lastfalling : (s.emitWord now).lastfalling = s.lastfalling := rfl
@[simp] theorem emitWord_rising : (s.emitWord now).rising = s.rising := rfl
@[simp] theorem emitWord_lastrising : (s.emitWord now).lastrising = s.lastrising := rfl
@[simp] theorem emitWord_highwidth : (s.emitWord now).highwidth = s.highwidth := rfl
@[simp] theorem emitWord_lowwidth : (s.emitWord now).lowwidth = s.lowwidth := rfl
@[simp] theorem emitWord_nibValue : (s.emitWord now).nibValue = s.nibValue := rfl
@[simp] theorem emitWord_nibCount : (s.emitWord now).nibCount = s.nibCount := rfl
@[simp] theorem emitWord_nibStart : (s.emitWord now).nibStart = s.nibStart := rfl
@[simp] theorem emitWord_wordValue : (s.emitWord now).wordValue = s.wordValue := rfl
@[simp] theorem emitWord_wordCount : (s.emitWord now).wordCount = s.wordCount := rfl
@[simp] theorem emitWord_wordStart : (s.emitWord now).wordStart = s.wordStart := rfl
@[simp] theorem emitWord_out :
    (s.emitWord now).out =
      s.out ++ [{ kind := .word, startSample := s.wordStart, endSample := now, payload := s.wordValue }] := rfl
@[simp] theorem emitWord_inbox : (s.emitWord now).inbox = s.inbox := rfl

end

section

variable (s : State) (now : Word) (lvl : Bit)

@[simp] theorem initRun_pol : (s.initRun now lvl).pol = s.pol := rfl
@[simp] theorem initRun_endian : (s.initRun now lvl).endian = s.endian := rfl
@[simp] theorem initRun_zt : (s.initRun now lvl).zt = s.zt := rfl
@[simp] theorem initRun_ot : (s.initRun now lvl).ot = s.ot := rfl
@[simp] theorem initRun_tol : (s.initRun now lvl).tol = s.tol := rfl
@[simp] theorem initRun_sr : (s.initRun now lvl).sr = s.sr := rfl
@[simp] theorem initRun_zs : (s.initRun now lvl).zs = s.zs := rfl
@[simp] theorem initRun_os : (s.initRun now lvl).os = s.os := rfl
@[simp] theorem initRun_phase : (s.initRun now lvl).phase = .running := rfl
@[simp] theorem initRun_err : (s.initRun now lvl).err = s.err := rfl
@[simp] theorem initRun_oldpin : (s.initRun now lvl).oldpin = lvl := rfl
@[simp] theorem initRun_lastpos : (s.initRun now lvl).lastpos = now := rfl
@[simp] theorem initRun_falling : (s.initRun now lvl).falling = now := rfl
@[simp] theorem initRun_lastfalling : (s.initRun now lvl).lastfalling = now := rfl
@[simp] theorem initRun_rising : (s.initRun now lvl).rising = now := rfl
@[simp] theorem initRun_lastrising : (s.initRun now lvl).lastrising = now := rfl
@[simp] theorem initRun_highwidth : (s.initRun now lvl).highwidth = 0 := rfl
@[simp] theorem initRun_lowwidth : (s.initRun now lvl).lowwidth = 0 := rfl
@[simp] theorem initRun_nibValue : (s.initRun now lvl).nibValue = s.nibValue := rfl
@[simp] theorem initRun_nibCount : (s.initRun now lvl).nibCount = s.nibCount := rfl
@[simp] theorem initRun_nibStart : (s.initRun now lvl).nibStart = now := rfl
@[simp] theorem initRun_wordValue : (s.initRun now lvl).wordValue = s.wordValue := rfl
@[simp] theorem initRun_wordCount : (s.initRun now lvl).wordCount = s.wordCount := rfl
@[simp] theorem initRun_wordStart : (s.initRun now lvl).wordStart = now := rfl
@[simp] theorem initRun_out : (s.initRun now lvl).out = s.out := rfl
@[simp] theorem initRun_inbox : (s.initRun now lvl).inbox = s.inbox := rfl

end

section

variable (s : State) (now high : Word)

@[simp] theorem recordFall_pol : (s.recordFall now high).pol = s.pol := rfl
@[simp] theorem recordFall_endian : (s.recordFall now high).endian = s.endian := rfl
@[simp] theorem recordFall_zt : (s.recordFall now high).zt = s.zt := rfl
@[simp] theorem recordFall_ot : (s.recordFall now high).ot = s.ot := rfl
@[simp] theorem recordFall_tol : (s.recordFall now high).tol = s.tol := rfl
@[simp] theorem recordFall_sr : (s.recordFall now high).sr = s.sr := rfl
@[simp] theorem recordFall_zs : (s.recordFall now high).zs = s.zs := rfl
@[simp] theorem recordFall_os : (s.recordFall now high).os = s.os := rfl
@[simp] theorem recordFall_phase : (s.recordFall now high).phase = s.phase := rfl
@[simp] theorem recordFall_err : (s.recordFall now high).err = s.err := rfl
@[simp] theorem recordFall_oldpin : (s.recordFall now high).oldpin = 0 := rfl
@[simp] theorem recordFall_lastpos : (s.recordFall now high).lastpos = now := rfl
@[simp] theorem recordFall_falling : (s.recordFall now high).falling = now := rfl
@[simp] theorem recordFall_lastfalling : (s.recordFall now high).lastfalling = s.falling := rfl
@[simp] theorem recordFall_rising : (s.recordFall now high).rising = s.rising := rfl
@[simp] theorem recordFall_lastrising : (s.recordFall now high).lastrising = s.lastrising := rfl
@[simp] theorem recordFall_highwidth : (s.recordFall now high).highwidth = high := rfl
@[simp] theorem recordFall_lowwidth : (s.recordFall now high).lowwidth = s.lowwidth := rfl
@[simp] theorem recordFall_nibValue : (s.recordFall now high).nibValue = s.nibValue := rfl
@[simp] theorem recordFall_nibCount : (s.recordFall now high).nibCount = s.nibCount := rfl
@[simp] theorem recordFall_nibStart : (s.recordFall now high).nibStart = s.nibStart := rfl
@[simp] theorem recordFall_wordValue : (s.recordFall now high).wordValue = s.wordValue := rfl
@[simp] theorem recordFall_wordCount : (s.recordFall now high).wordCount = s.wordCount := rfl
@[simp] theorem recordFall_wordStart : (s.recordFall now high).wordStart = s.wordStart := rfl
@[simp] theorem recordFall_out : (s.recordFall now high).out = s.out := rfl
@[simp] theorem recordFall_inbox : (s.recordFall now high).inbox = s.inbox := rfl

end

section

variable (s : State) (now low : Word)

@[simp] theorem recordRise_pol : (s.recordRise now low).pol = s.pol := rfl
@[simp] theorem recordRise_endian : (s.recordRise now low).endian = s.endian := rfl
@[simp] theorem recordRise_zt : (s.recordRise now low).zt = s.zt := rfl
@[simp] theorem recordRise_ot : (s.recordRise now low).ot = s.ot := rfl
@[simp] theorem recordRise_tol : (s.recordRise now low).tol = s.tol := rfl
@[simp] theorem recordRise_sr : (s.recordRise now low).sr = s.sr := rfl
@[simp] theorem recordRise_zs : (s.recordRise now low).zs = s.zs := rfl
@[simp] theorem recordRise_os : (s.recordRise now low).os = s.os := rfl
@[simp] theorem recordRise_phase : (s.recordRise now low).phase = s.phase := rfl
@[simp] theorem recordRise_err : (s.recordRise now low).err = s.err := rfl
@[simp] theorem recordRise_oldpin : (s.recordRise now low).oldpin = 1 := rfl
@[simp] theorem recordRise_lastpos : (s.recordRise now low).lastpos = now := rfl
@[simp] theorem recordRise_falling : (s.recordRise now low).falling = s.falling := rfl
@[simp] theorem recordRise_lastfalling : (s.recordRise now low).lastfalling = s.lastfalling := rfl
@[simp] theorem recordRise_rising : (s.recordRise now low).rising = now := rfl
@[simp] theorem recordRise_lastrising : (s.recordRise now low).lastrising = s.rising := rfl
@[simp] theorem recordRise_highwidth : (s.recordRise now low).highwidth = s.highwidth := rfl
@[simp] theorem recordRise_lowwidth : (s.recordRise now low).lowwidth = low := rfl
@[simp] theorem recordRise_nibValue : (s.recordRise now low).nibValue = s.nibValue := rfl
@[simp] theorem recordRise_nibCount : (s.recordRise now low).nibCount = s.nibCount := rfl
@[simp] theorem recordRise_nibStart : (s.recordRise now low).nibStart = s.nibStart := rfl
@[simp] theorem recordRise_wordValue : (s.recordRise now low).wordValue = s.wordValue := rfl
@[simp] theorem recordRise_wordCount : (s.recordRise now low).wordCount = s.wordCount := rfl
@[simp] theorem recordRise_wordStart : (s.recordRise now low).wordStart = s.wordStart := rfl
@[simp] theorem recordRise_out : (s.recordRise now low).out = s.out := rfl
@[simp] theorem recordRise_inbox : (s.recordRise now low).inbox = s.inbox := rfl

end

end Sys2Proof.Machine.State
end

