-- ==== Sys2Proof/Laws/Ops.lean ====
section
/-! SUPPORT. One lemma per shared operation that says once everything it can do; a proof cites it instead of unfolding
the operation. On the normative core nothing faults, so most operations equal `.next` of a plain state. -/

namespace Sys2Proof.Machine

/-- A bit is 0 or 1. -/
theorem bit_zero_or_one (b : Bit) : b = 0 ∨ b = 1 := by
  revert b
  decide

theorem bit_toNat_le_one (b : Bit) : b.toNat ≤ 1 := Nat.lt_succ_iff.mp b.isLt

theorem bit_ne_zero_iff (b : Bit) : b ≠ 0 ↔ b = 1 := by
  revert b
  decide

/-! Operands. -/

theorem width_eq_some_iff {now since w : Word} : width now since = some w ↔ since ≤ now ∧ w = now - since := by
  unfold width
  by_cases h : since ≤ now <;> simp [h, eq_comm]

theorem width_eq_none_iff {now since : Word} : width now since = none ↔ now < since := by
  simp [width]

theorem width_toNat {now since w : Word} (h : width now since = some w) :
    since.toNat ≤ now.toNat ∧ w.toNat = now.toNat - since.toNat := by
  obtain ⟨hle, rfl⟩ := width_eq_some_iff.mp h
  exact ⟨hle, BitVec.toNat_sub_of_le hle⟩

@[simp] theorem direction_unchanged_iff {o l : Bit} : direction o l = .unchanged ↔ l = o := by
  revert o l
  decide

@[simp] theorem direction_falling_iff {o l : Bit} : direction o l = .falling ↔ o = 1 ∧ l = 0 := by
  revert o l
  decide

@[simp] theorem direction_rising_iff {o l : Bit} : direction o l = .rising ↔ o = 0 ∧ l = 1 := by
  revert o l
  decide

/-! Classification. -/

theorem decideBit_eq_one_iff {zs os : Int} {low high : Nat} :
    decideBit zs os low high = some 1 ↔ zs < low ∧ 2 * (low : Int) ≤ 3 * os ∧ (high : Int) ≤ 2 * os := by
  unfold decideBit
  split
  · simp_all
  · split <;> simp_all

theorem decideBit_eq_zero_iff {zs os : Int} {low high : Nat} :
    decideBit zs os low high = some 0 ↔ (low : Int) < zs := by
  unfold decideBit
  split
  · rename_i h
    have : ¬ (low : Int) < zs := by omega
    simp [this]
  · split <;> simp_all

theorem decideBit_eq_none_iff {zs os : Int} {low high : Nat} :
    decideBit zs os low high = none ↔
      ((low : Int) = zs ∨ (zs < low ∧ 3 * os < 2 * (low : Int)) ∨ (zs < low ∧ 2 * os < (high : Int))) := by
  unfold decideBit
  split
  · simp; omega
  · split
    · simp; omega
    · simp; omega

theorem decidePulse_eq_leadout_iff {zs os : Int} {low high : Nat} :
    decidePulse zs os low high = .leadout ↔ 2 * os ≤ (high : Int) ∧ 20 * zs ≤ (low : Int) ∧ (low : Int) < 100 * zs := by
  unfold decidePulse
  split
  · split <;> simp_all
  · simp_all

theorem decidePulse_eq_ordinary_iff {zs os : Int} {low high : Nat} :
    decidePulse zs os low high = .ordinary ↔ (high : Int) < 2 * os := by
  unfold decidePulse
  split
  · split <;> simp <;> omega
  · simp; omega

/-! The accumulator on the normative core. -/

@[simp] theorem pushBit_normative (s : State) (b : Bit) (now : Word) :
    s.pushBit Config.normative b now = .next (s.pushed b now) := rfl

@[simp] theorem thresh_normative (s : State) :
    s.thresh Config.normative =
      .next { s with
        zs := zeroSamples s.sr.toNat s.zt.toNat s.tol.toNat
        os := oneSamples s.sr.toNat s.ot.toNat s.tol.toNat } := rfl

/-- PUSH_BIT's two outcomes (R140, R144). -/
theorem pushed_cases (s : State) (b : Bit) (now : Word) :
    (s.nibCount ≠ 3 ∧ s.pushed b now = s.shiftIn b) ∨
    (s.nibCount = 3 ∧ s.pushed b now = (s.shiftIn b).completeNibble now) := by
  have h : s.nibCount.toNat + 1 = 4 ↔ s.nibCount = 3 := by
    generalize s.nibCount = c
    revert c
    decide
  unfold State.pushed
  by_cases hc : s.nibCount = 3
  · exact .inr ⟨hc, if_pos (h.mpr hc)⟩
  · exact .inl ⟨hc, if_neg (mt h.mp hc)⟩

/-- CLASSIFY_LOW's outcomes (R120). -/
theorem classifyLow_cases (s : State) (now : Word) :
    (decideBit s.zs s.os s.lowwidth.toNat s.highwidth.toNat = none ∧ s.classifyLow Config.normative now = .next s) ∨
    ∃ b, decideBit s.zs s.os s.lowwidth.toNat s.highwidth.toNat = some b ∧
      s.classifyLow Config.normative now = .next ((s.emit .bit s.lastrising s.rising b.toNat).pushed b now) := by
  unfold State.classifyLow
  split
  · rename_i b h
    exact .inr ⟨b, h, rfl⟩
  · rename_i h
    exact .inl ⟨h, rfl⟩

/-- CLASSIFY_HIGH's outcomes (R125). -/
theorem classifyHigh_cases (s : State) (now : Word) :
    (decidePulse s.zs s.os s.lowwidth.toNat s.highwidth.toNat = .ordinary ∧ s.classifyHigh now = s) ∨
    (decidePulse s.zs s.os s.lowwidth.toNat s.highwidth.toNat = .leadin ∧
      s.classifyHigh now = (s.emit .leader s.rising now 0).accReset now) ∨
    (decidePulse s.zs s.os s.lowwidth.toNat s.highwidth.toNat = .leadout ∧
      s.classifyHigh now = (s.emit .leader s.rising now 1).emitWord now) := by
  unfold State.classifyHigh
  split <;> simp_all

/-! The edge tracker. -/

theorem fall_eq_next_iff {s t : State} {now : Word} :
    s.fall now = .next t ↔ s.rising ≤ now ∧ t = (s.recordFall now (now - s.rising)).classifyHigh now := by
  unfold State.fall width
  by_cases h : s.rising ≤ now <;> simp [h, eq_comm]

/-- RISE's outcomes: what CLASSIFY_LOW does to the recorded edge, or a refusal (R105, R108). -/
theorem rise_cases (s : State) (now : Word) :
    (s.falling ≤ now ∧
      s.rise Config.normative now = (s.recordRise now (now - s.falling)).classifyLow Config.normative now) ∨
    (now < s.falling ∧ s.rise Config.normative now = .refused .sampleOrder) := by
  unfold State.rise width
  by_cases h : s.falling ≤ now
  · simp [h]
  · exact .inr ⟨BitVec.not_le.mp h, by simp [h]⟩

/-- FALL's outcomes (R104, R108). -/
theorem fall_cases (s : State) (now : Word) :
    (s.rising ≤ now ∧ s.fall now = .next ((s.recordFall now (now - s.rising)).classifyHigh now)) ∨
    (now < s.rising ∧ s.fall now = .refused .sampleOrder) := by
  unfold State.fall width
  by_cases h : s.rising ≤ now
  · simp [h]
  · exact .inr ⟨BitVec.not_le.mp h, by simp [h]⟩

/-- Everything an `edge` can do (R100, R103, R108, R111). -/
theorem edge_cases (s : State) (index : Word) (level : Bit) :
    (s.phase = .armed ∧
      s.edge Config.normative index level = .next (s.initRun index (level ^^^ s.pol))) ∨
    (s.phase ≠ .armed ∧ s.phase ≠ .running ∧ s.edge Config.normative index level = .next s) ∨
    (s.phase = .running ∧ level ^^^ s.pol = s.oldpin ∧ s.edge Config.normative index level = .next s) ∨
    (s.phase = .running ∧ level ^^^ s.pol ≠ s.oldpin ∧ index < s.lastpos ∧
      s.edge Config.normative index level = .refused .sampleOrder) ∨
    (s.phase = .running ∧ s.oldpin = 1 ∧ level ^^^ s.pol = 0 ∧ s.lastpos ≤ index ∧
      s.edge Config.normative index level = s.fall index) ∨
    (s.phase = .running ∧ s.oldpin = 0 ∧ level ^^^ s.pol = 1 ∧ s.lastpos ≤ index ∧
      s.edge Config.normative index level = s.rise Config.normative index) := by
  unfold State.edge State.report correctedLevel State.discard
  cases hp : s.phase <;> simp
  cases hd : direction s.oldpin (level ^^^ s.pol) <;> simp
  · left
    simpa using hd
  · obtain ⟨ho, hl⟩ := direction_falling_iff.mp hd
    by_cases hi : index < s.lastpos
    · simp [ho, hl, hi]
    · exact .inr (.inr (.inl ⟨ho, by simpa using hl, BitVec.not_lt.mp hi, by simp [hi]⟩))
  · obtain ⟨ho, hl⟩ := direction_rising_iff.mp hd
    by_cases hi : index < s.lastpos
    · simp [ho, hl, hi]
    · exact .inr (.inr (.inr ⟨ho, by simpa using hl, BitVec.not_lt.mp hi, by simp [hi]⟩))

/-! `cfgw`, `start`, `eos`. -/

/-- Everything a `cfgw` can do (R80, R62). -/
theorem configure_cases (s : State) (inRange : Bool) (written : State) :
    (inRange = true ∧ s.phase.betweenRuns = true ∧ s.configure inRange written = .next written) ∨
    (inRange = true ∧ s.phase.betweenRuns = false ∧ s.configure inRange written = .next s) ∨
    (inRange = false ∧ s.configure inRange written = .refused (.reserved .value)) := by
  unfold State.configure State.discard
  cases inRange <;> cases h : s.phase.betweenRuns <;> simp

/-- A `cfgw` that answers a next state wrote its register between runs or was discarded in one. -/
theorem configure_next_cases {s t written : State} {inRange : Bool} (h : s.configure inRange written = .next t) :
    (s.phase.betweenRuns = true ∧ t = written) ∨ (s.phase.betweenRuns = false ∧ t = s) := by
  rcases configure_cases s inRange written with ⟨_, hp, h2⟩ | ⟨_, hp, h2⟩ | ⟨_, h2⟩ <;> rw [h2] at h <;> cases h
  · exact .inl ⟨hp, rfl⟩
  · exact .inr ⟨hp, rfl⟩

theorem betweenRuns_iff {p : Phase} : p.betweenRuns = true ↔ p = .idle ∨ p = .stopped ∨ p = .error := by
  cases p <;> decide

theorem not_betweenRuns_iff {p : Phase} : p.betweenRuns = false ↔ p = .armed ∨ p = .running := by
  cases p <;> decide

/-- The state of a `start` that succeeds. -/
theorem start_cases (s : State) :
    (s.phase.betweenRuns = false ∧ exec .start s = .next s) ∨
    (s.phase.betweenRuns = true ∧ s.sr = 0 ∧ exec .start s = .next s.clearRun.raiseConfigurationError) ∨
    (s.phase.betweenRuns = true ∧ s.sr ≠ 0 ∧
      exec .start s = .next (State.arm
        { s.clearRun with
          zs := zeroSamples s.sr.toNat s.zt.toNat s.tol.toNat
          os := oneSamples s.sr.toNat s.ot.toNat s.tol.toNat })) := by
  simp only [exec, execStart, State.start]
  cases h : s.phase.betweenRuns
  · simp [State.discard]
  · by_cases hz : s.sr = 0
    · exact .inr (.inl ⟨rfl, hz, by simp only [hz, if_true]⟩)
    · exact .inr (.inr ⟨rfl, hz, by simp only [hz, if_true, if_false, thresh_normative]; rfl⟩)

theorem endRun_cases (s : State) :
    ((s.phase = .armed ∨ s.phase = .running) ∧ s.endRun = .next { s with phase := .stopped }) ∨
    (s.phase ≠ .armed ∧ s.phase ≠ .running ∧ s.endRun = .next s) := by
  unfold State.endRun State.discard
  cases s.phase <;> simp

/-! What each arm of `exec` is, so that no proof unfolds `exec`. -/

section

variable (s : State) (v now : Word) (b : Bit)

theorem exec_cfgwPol : exec (.cfgwPol v) s = s.configure (Instr.cfgwPol v).wellFormed { s with pol := bitValue v } := rfl
theorem exec_cfgwEnd : exec (.cfgwEnd v) s = s.configure (Instr.cfgwEnd v).wellFormed { s with endian := bitValue v } := rfl
theorem exec_cfgwZt : exec (.cfgwZt v) s = s.configure true { s with zt := v } := rfl
theorem exec_cfgwOt : exec (.cfgwOt v) s = s.configure true { s with ot := v } := rfl
theorem exec_cfgwTol : exec (.cfgwTol v) s = s.configure (Instr.cfgwTol v).wellFormed { s with tol := tolValue v } := rfl
theorem exec_cfgwSr : exec (.cfgwSr v) s = s.configure true { s with sr := v } := rfl
theorem exec_edge : exec (.edge now b) s = s.edge Config.normative now b := rfl
theorem exec_eos : exec .eos s = s.endRun := rfl
theorem exec_init : exec (.init now b) s = .next (s.initRun now b) := rfl
theorem exec_rise : exec (.rise now) s = s.rise Config.normative now := rfl
theorem exec_fall : exec (.fall now) s = s.fall now := rfl
theorem exec_classifyLow : exec (.classifyLow now) s = s.classifyLow Config.normative now := rfl
theorem exec_classifyHigh : exec (.classifyHigh now) s = .next (s.classifyHigh now) := rfl
theorem exec_pushBit : exec (.pushBit b now) s = .next (s.pushed b now) := rfl
theorem exec_accReset : exec (.accReset now) s = .next (s.accReset now) := rfl
theorem exec_emitWord : exec (.emitWord now) s = .next (s.emitWord now) := rfl

theorem exec_thresh :
    exec .thresh s = .next { s with
      zs := zeroSamples s.sr.toNat s.zt.toNat s.tol.toNat
      os := oneSamples s.sr.toNat s.ot.toNat s.tol.toNat } := rfl

end

/-! The step. -/

/-- Everything a step can do. -/
theorem step_cases (s : State) :
    (s.inbox = [] ∧ step s = .next s) ∨
    (∃ rest, s.inbox = .reset :: rest ∧ step s = .next (State.reset.withInbox rest)) ∨
    (∃ w rest i, s.inbox = .stimulus w :: rest ∧ decode w = .ok i ∧ step s = exec i (s.withInbox rest)) ∨
    (∃ w rest why, s.inbox = .stimulus w :: rest ∧ decode w = .error why ∧ step s = .refused (.reserved why)) := by
  unfold step fetch hardwareReset
  cases hin : s.inbox with
  | nil => simp
  | cons head rest =>
    cases head with
    | reset => simp
    | stimulus w => cases hd : decode w <;> simp [hd]

end Sys2Proof.Machine
end

