-- ==== Sys2Proof/Laws/Accumulator.lean ====
section
/-! SUPPORT. The accumulator as numbers: what one pushed bit does to the nibble and to the word, and the frame of
PUSH_BIT and of CLASSIFY_HIGH. -/

namespace Sys2Proof.Machine

theorem pushNibble_little (b : Bit) (c : BitVec 2) (v : BitVec 4) (h : v.toNat < 2 ^ c.toNat) :
    (pushNibble 0 b c v).toNat = 2 * v.toNat + b.toNat := by
  revert b c v
  decide

theorem pushNibble_big (b : Bit) (c : BitVec 2) (v : BitVec 4) (h : v.toNat < 2 ^ c.toNat) :
    (pushNibble 1 b c v).toNat = v.toNat + b.toNat * 2 ^ c.toNat := by
  revert b c v
  decide

theorem pushWord_little (b : Bit) (c v : Nat) : pushWord 0 b c v = 2 * v + b.toNat := by
  unfold pushWord
  rw [if_pos rfl, ← Nat.shiftLeft_add_eq_or_of_lt (i := 1) b.isLt, Nat.shiftLeft_eq]
  omega

theorem pushWord_big (b : Bit) (c v : Nat) (h : v < 2 ^ c) : pushWord 1 b c v = v + b.toNat * 2 ^ c := by
  unfold pushWord
  rw [if_neg (by decide), Nat.or_comm, ← Nat.shiftLeft_add_eq_or_of_lt h, Nat.shiftLeft_eq]
  omega

/-- The 2-bit count before a push: either it goes up by one, or it is 3 and the nibble completes. -/
theorem nibCount_cases (c : BitVec 2) : (c ≠ 3 ∧ (c + 1).toNat = c.toNat + 1 ∧ c.toNat < 3) ∨ (c = 3 ∧ c.toNat = 3) := by
  revert c
  decide

/-- What PUSH_BIT never writes, and the word it makes (R140, R143). -/
theorem pushed_frame (s : State) (b : Bit) (now : Word) :
    (s.pushed b now).pol = s.pol ∧ (s.pushed b now).endian = s.endian ∧ (s.pushed b now).zt = s.zt ∧
    (s.pushed b now).ot = s.ot ∧ (s.pushed b now).tol = s.tol ∧ (s.pushed b now).sr = s.sr ∧
    (s.pushed b now).zs = s.zs ∧ (s.pushed b now).os = s.os ∧ (s.pushed b now).phase = s.phase ∧
    (s.pushed b now).err = s.err ∧ (s.pushed b now).oldpin = s.oldpin ∧ (s.pushed b now).lastpos = s.lastpos ∧
    (s.pushed b now).falling = s.falling ∧ (s.pushed b now).lastfalling = s.lastfalling ∧
    (s.pushed b now).rising = s.rising ∧ (s.pushed b now).lastrising = s.lastrising ∧
    (s.pushed b now).highwidth = s.highwidth ∧ (s.pushed b now).lowwidth = s.lowwidth ∧
    (s.pushed b now).wordStart = s.wordStart ∧ (s.pushed b now).inbox = s.inbox ∧
    (s.pushed b now).wordCount = s.wordCount + 1 ∧
    (s.pushed b now).wordValue = pushWord s.endian b s.wordCount s.wordValue ∧
    ((s.pushed b now).nibStart = s.nibStart ∨ (s.pushed b now).nibStart = now) := by
  rcases pushed_cases s b now with ⟨_, h⟩ | ⟨_, h⟩ <;> simp [h]

/-- What CLASSIFY_HIGH never writes (R125). -/
theorem classifyHigh_frame (s : State) (now : Word) :
    (s.classifyHigh now).pol = s.pol ∧ (s.classifyHigh now).endian = s.endian ∧ (s.classifyHigh now).zt = s.zt ∧
    (s.classifyHigh now).ot = s.ot ∧ (s.classifyHigh now).tol = s.tol ∧ (s.classifyHigh now).sr = s.sr ∧
    (s.classifyHigh now).zs = s.zs ∧ (s.classifyHigh now).os = s.os ∧ (s.classifyHigh now).phase = s.phase ∧
    (s.classifyHigh now).err = s.err ∧ (s.classifyHigh now).oldpin = s.oldpin ∧
    (s.classifyHigh now).lastpos = s.lastpos ∧ (s.classifyHigh now).falling = s.falling ∧
    (s.classifyHigh now).lastfalling = s.lastfalling ∧ (s.classifyHigh now).rising = s.rising ∧
    (s.classifyHigh now).lastrising = s.lastrising ∧ (s.classifyHigh now).highwidth = s.highwidth ∧
    (s.classifyHigh now).lowwidth = s.lowwidth ∧ (s.classifyHigh now).inbox = s.inbox := by
  rcases classifyHigh_cases s now with ⟨_, h⟩ | ⟨_, h⟩ | ⟨_, h⟩ <;> simp [h]

/-- An `edge` that answers a next state emitted nothing, or was a falling edge, or a rising edge that decided a bit. -/
theorem edge_next_cases {s t : State} {index : Word} {level : Bit} (h : exec (.edge index level) s = .next t) :
    t.out = s.out ∨
    (s.phase = .running ∧ s.oldpin = 1 ∧ s.lastpos ≤ index ∧ s.rising ≤ index ∧
      t = (s.recordFall index (index - s.rising)).classifyHigh index) ∨
    (s.phase = .running ∧ s.oldpin = 0 ∧ s.lastpos ≤ index ∧ s.falling ≤ index ∧
      ∃ b, decideBit s.zs s.os (index - s.falling).toNat s.highwidth.toNat = some b ∧
        t = ((s.recordRise index (index - s.falling)).emit .bit s.rising index b.toNat).pushed b index) := by
  replace h : s.edge Config.normative index level = .next t := h
  rcases edge_cases s index level with ⟨_, h2⟩ | ⟨_, _, h2⟩ | ⟨_, _, h2⟩ | ⟨_, _, _, h2⟩ | ⟨hp, ho, _, hi, h2⟩ |
    ⟨hp, ho, _, hi, h2⟩ <;> rw [h2] at h
  · cases h
    exact .inl rfl
  · cases h
    exact .inl rfl
  · cases h
    exact .inl rfl
  · cases h
  · rcases fall_cases s index with ⟨h3, h4⟩ | ⟨_, h4⟩ <;> rw [h4] at h <;> cases h
    exact .inr (.inl ⟨hp, ho, hi, h3, rfl⟩)
  · rcases rise_cases s index with ⟨h3, h4⟩ | ⟨_, h4⟩ <;> rw [h4] at h
    · rcases classifyLow_cases (s.recordRise index (index - s.falling)) index with ⟨_, h5⟩ | ⟨b, h6, h5⟩ <;>
        rw [h5] at h <;> cases h
      · exact .inl rfl
      · exact .inr (.inr ⟨hp, ho, hi, h3, b, h6, rfl⟩)
    · cases h

end Sys2Proof.Machine
end

