-- ==== Sys2Proof/Laws/Encoding.lean ====
section
/-! SUPPORT. The fields of a stimulus word: reading back what `stimulusWord` laid out, and a word is its fields. -/

namespace Sys2Proof

theorem stimulusWord_toNat (op sel : BitVec 4) (data : Word) :
    (stimulusWord op sel data).toNat = op.toNat * 2 ^ 68 + sel.toNat * 2 ^ 64 + data.toNat := by
  have hd := data.isLt
  show (op ++ sel ++ data : BitVec (4 + 4 + 64)).toNat = _
  rw [BitVec.toNat_append, BitVec.toNat_append, ← Nat.shiftLeft_add_eq_or_of_lt sel.isLt,
    ← Nat.shiftLeft_add_eq_or_of_lt data.isLt, Nat.shiftLeft_eq, Nat.shiftLeft_eq]
  omega

theorem opField_toNat (w : Stimulus) : (opField w).toNat = w.toNat / 2 ^ 68 := by
  have hw := w.isLt
  simp only [opField, BitVec.extractLsb'_toNat, Nat.shiftRight_eq_div_pow]
  omega

theorem selField_toNat (w : Stimulus) : (selField w).toNat = w.toNat / 2 ^ 64 % 16 := by
  simp only [selField, BitVec.extractLsb'_toNat, Nat.shiftRight_eq_div_pow]

theorem dataField_toNat (w : Stimulus) : (dataField w).toNat = w.toNat % 2 ^ 64 := by
  simp [dataField, BitVec.extractLsb'_toNat]

@[simp] theorem opField_stimulusWord (op sel : BitVec 4) (data : Word) :
    opField (stimulusWord op sel data) = op := by
  have hs := sel.isLt
  have hd := data.isLt
  apply BitVec.eq_of_toNat_eq
  rw [opField_toNat, stimulusWord_toNat]
  omega

@[simp] theorem selField_stimulusWord (op sel : BitVec 4) (data : Word) :
    selField (stimulusWord op sel data) = sel := by
  have hs := sel.isLt
  have hd := data.isLt
  apply BitVec.eq_of_toNat_eq
  rw [selField_toNat, stimulusWord_toNat]
  omega

@[simp] theorem dataField_stimulusWord (op sel : BitVec 4) (data : Word) :
    dataField (stimulusWord op sel data) = data := by
  have hd := data.isLt
  apply BitVec.eq_of_toNat_eq
  rw [dataField_toNat, stimulusWord_toNat]
  omega

/-- A word is the word of its fields. -/
theorem stimulusWord_fields (w : Stimulus) : stimulusWord (opField w) (selField w) (dataField w) = w := by
  have hw := w.isLt
  apply BitVec.eq_of_toNat_eq
  rw [stimulusWord_toNat, opField_toNat, selField_toNat, dataField_toNat]
  omega

/-- What the decoder makes of a word, by its fields (R56). -/
theorem decode_stimulusWord (op sel : BitVec 4) (data : Word) :
    decode (stimulusWord op sel data) =
      if op = 1 then decodeCfgw sel data
      else if op = 2 then decodeBare .start sel data
      else if op = 3 then decodeEdge sel data
      else if op = 4 then decodeBare .eos sel data
      else .error .operation := by
  simp only [decode, opField_stimulusWord, selField_stimulusWord, dataField_stimulusWord]

/-- The mask of the opcode table's `cfgw` rows keeps `op` and `sel`. -/
theorem and_mask_op_sel (w : Stimulus) : w &&& 0xFF0000000000000000#72 = stimulusWord (opField w) (selField w) 0 := by
  have hw := w.isLt
  apply BitVec.eq_of_toNat_eq
  rw [stimulusWord_toNat, opField_toNat, selField_toNat, BitVec.toNat_and]
  have hm : (0xFF0000000000000000#72).toNat = (2 ^ 8 - 1) <<< 64 := by decide
  have hsplit : w.toNat = (w.toNat / 2 ^ 64) <<< 64 ||| w.toNat % 2 ^ 64 := by
    rw [← Nat.shiftLeft_add_eq_or_of_lt (Nat.mod_lt _ (by norm_num)), Nat.shiftLeft_eq]
    omega
  have hzero : w.toNat % 2 ^ 64 &&& (2 ^ 8 - 1) <<< 64 = 0 := by
    apply Nat.eq_of_testBit_eq
    intro i
    simp only [Nat.testBit_and, Nat.testBit_mod_two_pow, Nat.testBit_shiftLeft, Nat.zero_testBit]
    by_cases hi : i < 64
    · simp [show ¬ 64 ≤ i by omega]
    · simp [hi]
  rw [hm, hsplit, Nat.and_or_distrib_right, hzero, Nat.or_zero, ← Nat.shiftLeft_and_distrib, Nat.and_two_pow_sub_one_eq_mod,
    Nat.shiftLeft_eq]
  rw [← hsplit]
  simp
  omega

end Sys2Proof
end

