-- ==== Sys2Proof/Laws/PerInstr.lean ====
section
/-! SUPPORT. One lemma per constructor of Instr: the encoder's word has the constant bits of the instruction's row of
spec/opcode_table.json (30_encoding.md section 3), and exactly the internal operations have no word. -/

namespace Sys2Proof.Laws.EncodesAsTable

/-- `mask` and `match` of the instruction's row of spec/opcode_table.json; none for a row of format `internal`. -/
def row : Instr → Option (Stimulus × Stimulus)
  | .cfgwPol _ => some (0xFF0000000000000000, 0x100000000000000000)
  | .cfgwEnd _ => some (0xFF0000000000000000, 0x110000000000000000)
  | .cfgwZt _ => some (0xFF0000000000000000, 0x120000000000000000)
  | .cfgwOt _ => some (0xFF0000000000000000, 0x130000000000000000)
  | .cfgwTol _ => some (0xFF0000000000000000, 0x140000000000000000)
  | .cfgwSr _ => some (0xFF0000000000000000, 0x150000000000000000)
  | .start => some (0xFFFFFFFFFFFFFFFFFF, 0x200000000000000000)
  | .edge _ _ => some (0xFE0000000000000000, 0x300000000000000000)
  | .eos => some (0xFFFFFFFFFFFFFFFFFF, 0x400000000000000000)
  | .thresh => none
  | .init _ _ => none
  | .rise _ => none
  | .fall _ => none
  | .classifyLow _ => none
  | .classifyHigh _ => none
  | .pushBit _ _ => none
  | .accReset _ => none
  | .emitWord _ => none

/-- The encoder agrees with the row: an encoded instruction has the row's constant bits, and an instruction without a
row has no word. -/
def Statement (i : Instr) : Prop :=
  match encode i, row i with
  | some w, some (mask, constant) => w &&& mask = constant
  | none, none => i.isStimulus = false
  | _, _ => False

theorem cfgwPol (v : Word) : Statement (.cfgwPol v) := by
  simp only [Statement, encode, row]
  exact (and_mask_op_sel _).trans (by simp only [opField_stimulusWord, selField_stimulusWord]; decide)

theorem cfgwEnd (v : Word) : Statement (.cfgwEnd v) := by
  simp only [Statement, encode, row]
  exact (and_mask_op_sel _).trans (by simp only [opField_stimulusWord, selField_stimulusWord]; decide)

theorem cfgwZt (v : Word) : Statement (.cfgwZt v) := by
  simp only [Statement, encode, row]
  exact (and_mask_op_sel _).trans (by simp only [opField_stimulusWord, selField_stimulusWord]; decide)

theorem cfgwOt (v : Word) : Statement (.cfgwOt v) := by
  simp only [Statement, encode, row]
  exact (and_mask_op_sel _).trans (by simp only [opField_stimulusWord, selField_stimulusWord]; decide)

theorem cfgwTol (v : Word) : Statement (.cfgwTol v) := by
  simp only [Statement, encode, row]
  exact (and_mask_op_sel _).trans (by simp only [opField_stimulusWord, selField_stimulusWord]; decide)

theorem cfgwSr (v : Word) : Statement (.cfgwSr v) := by
  simp only [Statement, encode, row]
  exact (and_mask_op_sel _).trans (by simp only [opField_stimulusWord, selField_stimulusWord]; decide)

theorem start : Statement .start := by
  simp only [Statement, encode, row]
  decide

theorem edge (index : Word) (level : Bit) : Statement (.edge index level) := by
  have h : (0xFE0000000000000000 : Stimulus) = 0xFF0000000000000000#72 &&& 0xFE0000000000000000#72 := by decide
  simp only [Statement, encode, row]
  rw [h, ← BitVec.and_assoc, and_mask_op_sel, opField_stimulusWord, selField_stimulusWord]
  revert level
  decide

theorem eos : Statement .eos := by
  simp only [Statement, encode, row]
  decide

theorem thresh : Statement .thresh := rfl

theorem init (now : Word) (lvl : Bit) : Statement (.init now lvl) := rfl

theorem rise (now : Word) : Statement (.rise now) := rfl

theorem fall (now : Word) : Statement (.fall now) := rfl

theorem classifyLow (now : Word) : Statement (.classifyLow now) := rfl

theorem classifyHigh (now : Word) : Statement (.classifyHigh now) := rfl

theorem pushBit (b : Bit) (now : Word) : Statement (.pushBit b now) := rfl

theorem accReset (now : Word) : Statement (.accReset now) := rfl

theorem emitWord (now : Word) : Statement (.emitWord now) := rfl

end Sys2Proof.Laws.EncodesAsTable
end

