-- ==== Sys2Proof/Tests/Slice0.lean ====
section
/-! SUPPORT. Tests: what WellFormed refuses, words written out from 30_encoding.md, single steps against
95_test_vectors.md, and for each statement with hypotheses a state and operands that meet them. -/

namespace Sys2Proof.Tests

open Sys2Proof Sys2Proof.Machine

/-! WellFormed: each check refuses an ill-formed term (30_encoding.md R62). -/

theorem test_wellFormed_refuses_pol_2 : (Instr.cfgwPol 2).wellFormed = false := by decide
theorem test_wellFormed_refuses_end_2 : (Instr.cfgwEnd 2).wellFormed = false := by decide
theorem test_wellFormed_refuses_tol_101 : (Instr.cfgwTol 101).wellFormed = false := by decide
theorem test_wellFormed_takes_tol_100 : (Instr.cfgwTol 100).wellFormed = true := by decide

/-! Decoding: op, sel and data written out by hand (R55 to R60; the words of V2). -/

theorem test_decode_cfgw_pol : decode (0x1#4 ++ 0x0#4 ++ 0x1#64 : BitVec 72) = .ok (.cfgwPol 1) := by decide
theorem test_decode_cfgw_end : decode 0x110000000000000001#72 = .ok (.cfgwEnd 1) := by decide
theorem test_decode_cfgw_zt : decode 0x120000000000000190#72 = .ok (.cfgwZt 400) := by decide
theorem test_decode_cfgw_ot : decode 0x130000000000000320#72 = .ok (.cfgwOt 800) := by decide
theorem test_decode_cfgw_tol : decode 0x140000000000000014#72 = .ok (.cfgwTol 20) := by decide
theorem test_decode_cfgw_sr : decode 0x15FFFFFFFFFFFFFFFF#72 = .ok (.cfgwSr 18446744073709551615) := by decide
theorem test_decode_start : decode 0x200000000000000000#72 = .ok .start := by decide
theorem test_decode_edge : decode 0x31FFFFFFFFFFFFFFFF#72 = .ok (.edge 18446744073709551615 1) := by decide
theorem test_decode_eos : decode 0x400000000000000000#72 = .ok .eos := by decide
theorem test_encode_cfgw_sr : encode (.cfgwSr 1000000) = some 0x1500000000000F4240#72 := by decide
theorem test_encode_edge : encode (.edge 2000 1) = some 0x3100000000000007D0#72 := by decide

/-- The reserved words of V3 and the name each is rejected by. -/
theorem test_decode_reserved :
    [0x000000000000000000#72, 0x500000000000000000#72, 0xF00000000000000000#72, 0x160000000000000000#72,
      0x1F0000000000000001#72, 0x100000000000000002#72, 0x110000000000000002#72, 0x140000000000000065#72,
      0x200000000000000001#72, 0x210000000000000000#72, 0x400000000000000001#72, 0x4F0000000000000000#72,
      0x320000000000000000#72, 0x3F0000000000000000#72].map decode =
    [.error .operation, .error .operation, .error .operation, .error .register, .error .register, .error .value,
      .error .value, .error .value, .error .operand, .error .operand, .error .operand, .error .operand,
      .error .selector, .error .selector] := by decide

theorem test_decodeTableWord_start : decodeTableWord 72 0x200000000000000000 = some .start := by decide

/-! States of 95_test_vectors.md. -/

/-- After V1's `edge 2300, 0`: a leadin and one bit 0; the line is active. -/
def afterRise : State :=
  { State.reset with
    sr := 1000000, zs := 481, os := 639, phase := .running, oldpin := 1, lastpos := 2300, falling := 2000, rising := 2300,
    highwidth := 2000, lowwidth := 300, nibCount := 1, nibStart := 2000, wordCount := 1, wordStart := 2000,
    out := [{ kind := .leader, startSample := 0, endSample := 2000, payload := 0 },
      { kind := .bit, startSample := 0, endSample := 2300, payload := 0 }] }

/-- After V1's `edge 2400, 1`: the line is inactive. -/
def afterFall : State :=
  { afterRise with oldpin := 0, lastpos := 2400, falling := 2400, lastfalling := 2000, highwidth := 100 }

/-- After the usual prologue: ARMED. -/
def armed : State := { State.reset with sr := 1000000, zs := 481, os := 639, phase := .armed }

/-- After a `start` without a time base (V6). -/
def failed : State := { State.reset with err := 1, phase := .error }

theorem afterRise_inv : afterRise.Inv :=
  ⟨by decide, by decide, by decide, fun _ => by decide, fun _ => by decide, by decide⟩

theorem afterFall_inv : afterFall.Inv :=
  ⟨by decide, by decide, by decide, fun _ => by decide, fun _ => by decide, by decide⟩

/-! One step each, expected results from 95_test_vectors.md. -/

/-- V4, first row: `cfgw sr` then `start`. -/
theorem test_start_thresholds :
    exec .start { State.reset with sr := 1000000 } = .next { armed with sr := 1000000 } := by rfl

/-- V6. -/
theorem test_start_without_rate : exec .start State.reset = .next failed := by rfl

/-- V4 and V5: rounding down, a negative `OS`, the largest `ZS`, and durations of 0. -/
theorem test_thresholds :
    (zeroSamples 999999 400 20, oneSamples 999999 800 20) = (480, 638) ∧
    (zeroSamples 1000 400 20, oneSamples 1000 800 20) = (1, -1) ∧
    zeroSamples (2 ^ 64 - 1) (2 ^ 64 - 1) 100 = 680564733841876926852962238568699 ∧
    oneSamples (2 ^ 64 - 1) (2 ^ 64 - 1) 100 = -1 ∧
    (zeroSamples 1000000 0 20, oneSamples 1000000 0 20) = (0, 0) := by decide

/-- V7: accepted in STOPPED, discarded in RUNNING. -/
theorem test_cfgw_tol_by_phase :
    exec (.cfgwTol 0) { afterFall with phase := .stopped } = .next { afterFall with phase := .stopped, tol := 0 } ∧
    exec (.cfgwTol 0) afterFall = .next afterFall := by constructor <;> rfl

/-- V8: INIT with `POL = 1` and raw level 1. -/
theorem test_edge_init :
    exec (.edge 1000 1) armed = .next
      { armed with
        phase := .running, oldpin := 0, lastpos := 1000, falling := 1000, lastfalling := 1000, rising := 1000,
        lastrising := 1000, nibStart := 1000, wordStart := 1000 } := by rfl

/-- V1: `edge 2400, 1` is an ordinary pulse of 100. -/
theorem test_edge_ordinary_fall : exec (.edge 2400 1) afterRise = .next afterFall := by rfl

/-- V1: `edge 3100, 0` ends a gap of 700, a bit 1. -/
theorem test_edge_rise_one :
    exec (.edge 3100 0) afterFall = .next
      { afterFall with
        oldpin := 1, lastpos := 3100, rising := 3100, lastrising := 2300, lowwidth := 700, nibValue := 1, nibCount := 2,
        wordValue := 1, wordCount := 2,
        out := afterFall.out ++ [{ kind := .bit, startSample := 2300, endSample := 3100, payload := 1 }] } := by rfl

/-- V16: a pulse of 1278 after gaps of 9619, 9620, 48099 and 48100, and a pulse of 1277. -/
theorem test_decidePulse_boundaries :
    [decidePulse 481 639 9619 1278, decidePulse 481 639 9620 1278, decidePulse 481 639 48099 1278,
      decidePulse 481 639 48100 1278, decidePulse 481 639 10000 1277] =
    [.leadin, .leadout, .leadout, .leadin, .ordinary] := by decide

/-- V15. -/
theorem test_decideBit_boundaries :
    [decideBit 481 639 0 100, decideBit 481 639 480 2000, decideBit 481 639 481 100, decideBit 481 639 482 100,
      decideBit 481 639 958 100, decideBit 481 639 959 100, decideBit 481 639 700 1278, decideBit 481 639 700 1279,
      decideBit 480 638 957 100] =
    [some 0, some 0, none, some 1, some 1, none, some 1, none, some 1] := by decide

/-- V13: an index below `lastpos` is refused when the level changed and ignored when it did not. -/
theorem test_edge_order :
    exec (.edge 999 1) { afterRise with lastpos := 1000 } = .refused .sampleOrder ∧
    exec (.edge 999 0) { afterRise with lastpos := 1000 } = .next { afterRise with lastpos := 1000 } := by
  constructor <;> rfl

/-- V11: equal indices measure a width of 0. -/
theorem test_width_zero : width 100 100 = some 0 := by decide

/-- V19, the fourth push: little gives Hex 11, big gives Hex 13. -/
theorem test_pushBit_fourth :
    (State.pushed { State.reset with nibValue := 5, nibCount := 3, wordValue := 5, wordCount := 3 } 1 7).out =
      [{ kind := .hex, startSample := 0, endSample := 7, payload := 11 }] ∧
    (State.pushed { State.reset with endian := 1, nibValue := 5, nibCount := 3, wordValue := 5, wordCount := 3 } 1 7).out =
      [{ kind := .hex, startSample := 0, endSample := 7, payload := 13 }] := by decide

/-- V19, the fifth push: the words 23 and 29. -/
theorem test_pushWord : pushWord 0 1 4 11 = 23 ∧ pushWord 1 1 4 13 = 29 := by decide

/-- V14, V27: `eos` changes `PHASE` only. -/
theorem test_eos : exec .eos afterFall = .next { afterFall with phase := .stopped } := by rfl

/-- The reset state with a stimulus offered runs it as its first step. -/
theorem test_first_step : step (State.reset.withFetchWord 72 0x1500000000000F4240) =
    .next { State.reset with sr := 1000000 } := by rfl

/-- A reserved word offered first is refused by name. -/
theorem test_step_reserved : step (State.reset.withFetchWord 72 0) = .refused (.reserved .operation) := by rfl

/-- V26: reset in the middle of a run. -/
theorem test_reset : step { afterFall with inbox := [.reset] } = .next State.reset := by rfl

/-- R150's and the program P2's Word text. -/
theorem test_word_text :
    Event.textChars { kind := .word, startSample := 0, endSample := 0, payload := 220 } = ['0', 'x', 'd', 'c'] ∧
    Event.textChars { kind := .word, startSample := 0, endSample := 0, payload := 0 } = ['0', 'x', '0'] := by decide

/-- The example at the end of 30_encoding.md. -/
theorem test_wave : waveReports 0 [(0, 2000), (1, 300), (0, 100)] = [(0, 0), (2000, 1), (2300, 0)] := by decide

/-- The same example as it is written. -/
theorem test_readWave :
    readWave ['w', 'a', 'v', 'e', ' ', '0', ':', ' ', '(', '0', ',', '2', '0', '0', '0', ')', ' ', '(', '1', ',', '3', '0',
      '0', ')', ' ', '(', '0', ',', '1', '0', '0', ')'] = some [(0, 0), (2000, 1), (2300, 0)] := by decide

/-- R68: `cfgw pol, low ; active-low`. -/
theorem test_readLine :
    readLine ['c', 'f', 'g', 'w', ' ', 'p', 'o', 'l', ',', ' ', 'l', 'o', 'w', ' ', ';', ' ', 'x'] =
      some (some (.cfgwPol 1)) := by decide

/-! Witnesses: each names the statement whose hypotheses it meets. -/

theorem witness_DecodeOfEncode : (Instr.cfgwTol 100).isStimulus = true ∧ (Instr.cfgwTol 100).wellFormed = true := by decide
theorem witness_EncodeOfDecode : decode 0x3100000000000007D0#72 = .ok (.edge 2000 1) := by decide
theorem witness_ReservedWordsRefused :
    (State.reset.offer 0x140000000000000065#72).inbox = .stimulus 0x140000000000000065#72 :: [] := by decide
theorem witness_StepRunsTheDecoded :
    (State.reset.offer 0x200000000000000000#72).inbox = .stimulus 0x200000000000000000#72 :: [] ∧
    decode 0x200000000000000000#72 = .ok .start := by decide
theorem witness_StepWaits : afterRise.inbox = [] := by decide
theorem witness_HardwareReset : ({ afterRise with inbox := [.reset] } : State).inbox = .reset :: [] := by decide
theorem witness_StepKeepsInv :
    (afterRise.offer 0x310000000000000960#72).Inv ∧ step (afterRise.offer 0x310000000000000960#72) = .next afterFall :=
  ⟨⟨by decide, by decide, by decide, fun _ => by decide, fun _ => by decide, by decide⟩, by rfl⟩
theorem witness_StepKeepsStream :
    (afterRise.offer 0x310000000000000960#72).Inv ∧ (afterRise.offer 0x310000000000000960#72).StreamInv ∧ step (afterRise.offer 0x310000000000000960#72) = .next afterFall :=
  ⟨witness_StepKeepsInv.1, by decide, by rfl⟩
theorem witness_TimestampsSinceFirst :
    (afterRise.offer 0x310000000000000960#72).Inv ∧ step (afterRise.offer 0x310000000000000960#72) = .next afterFall ∧
    armed.phase = .armed ∧ (afterRise.offer 0x310000000000000960#72).phase = .running ∧ afterFall.phase = .running ∧
    (0 : Word) ≤ afterRise.lastpos ∧ (0 : Word) ≤ afterRise.falling ∧ (0 : Word) ≤ afterRise.lastfalling ∧
    (0 : Word) ≤ afterRise.rising ∧ (0 : Word) ≤ afterRise.lastrising :=
  ⟨witness_StepKeepsInv.1, witness_StepKeepsInv.2, by decide⟩
theorem witness_NothingElseFails :
    (afterRise.offer 0x3100000000000003E7#72).Inv ∧
    (afterRise.offer 0x3100000000000003E7#72).inbox = [.stimulus 0x3100000000000003E7#72] ∧ decode 0x3100000000000003E7#72 = .ok (.edge 999 1) ∧
    step (afterRise.offer 0x3100000000000003E7#72) = .refused .sampleOrder :=
  ⟨⟨by decide, by decide, by decide, fun _ => by decide, fun _ => by decide, by decide⟩, by decide, by decide, by rfl⟩
theorem witness_PhaseTable : step State.reset = .next State.reset := by rfl
theorem witness_DiscardCells :
    (Instr.cfgwTol 100).wellFormed = true ∧ discards (.cfgwTol 100) afterRise.phase = true ∧
    discards (.edge 5 0) failed.phase = true ∧ discards .start armed.phase = true ∧ discards .eos .idle = true := by decide
theorem witness_ConfigurationFixedInARun :
    (afterRise.offer 0x310000000000000960#72).phase = .running ∧
    (∀ rest, (afterRise.offer 0x310000000000000960#72).inbox ≠ .reset :: rest) ∧
    step (afterRise.offer 0x310000000000000960#72) = .next afterFall :=
  ⟨by decide, fun _ h => (by cases h), by rfl⟩
theorem witness_OnlyStartWritesThresholds :
    (Instr.edge 2400 1).isStimulus = true ∧ Instr.edge 2400 1 ≠ .start ∧ exec (.edge 2400 1) afterRise = .next afterFall :=
  ⟨by decide, by decide, by rfl⟩
theorem witness_EdgeStateWriters : exec .eos afterRise = .next { afterRise with phase := .stopped } := by rfl
theorem witness_EventsOfAnEdge : exec (.edge 2400 1) afterRise = .next afterFall := by rfl
theorem witness_OtherStimuliEmitNothing :
    Instr.eos.isStimulus = true ∧ (∀ a b, Instr.eos ≠ .edge a b) ∧
    exec .eos afterRise = .next { afterRise with phase := .stopped } :=
  ⟨by decide, fun _ _ h => (by cases h), by rfl⟩
theorem witness_LastfallingIsNeverRead : exec (.fall 2400) afterRise = .next afterFall := by rfl
theorem witness_CfgwWritesItsRegister :
    failed.phase = .error ∧ (1 : Word).toNat ≤ 1 ∧ (100 : Word).toNat ≤ 100 := by decide
theorem witness_CfgwRefusesReservedValues : 1 < (2 : Word).toNat ∧ 100 < (101 : Word).toNat := by decide
theorem witness_StartArms :
    ({ failed with sr := 1 } : State).phase = .error ∧ ({ failed with sr := 1 } : State).sr ≠ 0 ∧
    ({ failed with sr := 1, tol := 100 } : State).tol.toNat ≤ 100 := by decide
theorem witness_StartWithoutTimeBase : failed.phase = .error ∧ failed.sr = 0 := by decide
theorem witness_WayOutOfError : failed.phase = .error ∧ (1 : Word) ≠ 0 := by decide
theorem witness_ThreshComputesFloors : ({ armed with tol := 100 } : State).tol.toNat ≤ 100 := by decide
theorem witness_ThresholdBounds : 2 ^ 64 - 1 < 2 ^ 64 ∧ 100 ≤ 100 := by decide
theorem witness_ThresholdOrder :
    400 * (100 + 33) < 800 * (100 - 33) ∧ ¬ 400 * (100 + 34) < 800 * (100 - 34) := by decide
theorem witness_ThresholdWidthSuffices : State.reset.tol.toNat ≤ 100 := by decide
theorem witness_FirstReportInitialises : armed.phase = .armed := by decide
theorem witness_UnchangedLevelDoesNothing :
    afterRise.phase = .running ∧ (0 : Bit) ^^^ afterRise.pol = afterRise.oldpin := by decide
theorem witness_SampleOrderBreachRefused :
    afterRise.phase = .running ∧ (1 : Bit) ^^^ afterRise.pol ≠ afterRise.oldpin ∧ (2299 : Word) < afterRise.lastpos := by
  decide
/-- FALL's three clauses: an ordinary pulse, a leadin and a leadout at the lower end of the band. -/
theorem witness_FallResult :
    afterRise.rising ≤ (2300 : Word) ∧ decidePulse 481 639 300 (2300 - 2300) = .ordinary ∧
    decidePulse 481 639 300 (3578 - 2300) = .leadin ∧ decidePulse 481 639 9620 (3578 - 2300) = .leadout := by decide
theorem witness_ChangedLevelTakesTheEdge :
    (afterRise.phase = .running ∧ afterRise.EdgeInv ∧ afterRise.oldpin = 1 ∧ (1 : Bit) ^^^ afterRise.pol = 0 ∧
      afterRise.lastpos ≤ (2300 : Word)) ∧
    (afterFall.phase = .running ∧ afterFall.EdgeInv ∧ afterFall.oldpin = 0 ∧ (0 : Bit) ^^^ afterFall.pol = 1 ∧
      afterFall.lastpos ≤ (2400 : Word)) := by decide
theorem witness_FallRecordsThenClassifies : afterRise.rising ≤ (2300 : Word) := by decide
theorem witness_RiseResult : afterFall.falling ≤ (2400 : Word) := by decide
theorem witness_RiseFrame : afterFall.falling ≤ (3100 : Word) := by decide
theorem witness_EosStops : armed.phase = .armed ∧ afterRise.phase = .running ∧ failed.phase = .error := by decide
/-- A state at 1 MHz with the default thresholds that has measured a gap of `low` and a pulse of `high` samples. -/
def gapAfter (low high : Word) : State := { afterRise with lowwidth := low, highwidth := high }

/-- CLASSIFY_LOW's two clauses at their bounds: 958 is the last 1 and 480 the last 0. -/
theorem witness_ClassifyLowDecides :
    (gapAfter 958 1278).zs < (gapAfter 958 1278).lowwidth.toNat ∧
    2 * ((gapAfter 958 1278).lowwidth.toNat : Int) ≤ 3 * (gapAfter 958 1278).os ∧
    ((gapAfter 958 1278).highwidth.toNat : Int) ≤ 2 * (gapAfter 958 1278).os ∧
    ((gapAfter 480 0).lowwidth.toNat : Int) < (gapAfter 480 0).zs := by decide
/-- The three gaps that decide nothing, at their bounds: 481, 959, and 482 after a pulse of 1279. -/
theorem witness_ClassifyLowNoDecision :
    ((gapAfter 481 0).lowwidth.toNat : Int) = (gapAfter 481 0).zs ∧
    ((gapAfter 959 0).zs < (gapAfter 959 0).lowwidth.toNat ∧
      3 * (gapAfter 959 0).os < 2 * ((gapAfter 959 0).lowwidth.toNat : Int)) ∧
    ((gapAfter 482 1279).zs < (gapAfter 482 1279).lowwidth.toNat ∧
      2 * (gapAfter 482 1279).os < ((gapAfter 482 1279).highwidth.toNat : Int)) := by decide
theorem witness_NoOneAfterALongPulse :
    2 * ({ afterFall with highwidth := 1279 } : State).os < (({ afterFall with highwidth := 1279 } : State).highwidth.toNat : Int) ∧
    ({ afterFall with highwidth := 1279 } : State).oldpin = 0 ∧
    exec (.edge 2400 1) { afterFall with highwidth := 1279 } = .next { afterFall with highwidth := 1279 } :=
  ⟨by decide, by decide, by rfl⟩
theorem witness_ZeroThresholdZero :
    ({ afterRise with zs := 0 } : State).zs = 0 ∧
    exec (.edge 2400 1) { afterRise with zs := 0 } = .next { afterFall with zs := 0 } := ⟨by decide, by rfl⟩
theorem witness_OneThresholdNotPositive :
    ({ armed with phase := .running, os := 0 } : State).os ≤ 0 ∧ 0 ≤ ({ armed with phase := .running, os := 0 } : State).zs ∧
    exec (.edge 0 1) { armed with phase := .running, os := 0 } = .next { armed with phase := .running, os := 0 } :=
  ⟨by decide, by decide, by rfl⟩
/-- The second clause: a falling edge, and it emits a leader. -/
theorem witness_OneThresholdNotPositive_falling :
    ({ afterRise with os := 0 } : State).os ≤ 0 ∧ ({ afterRise with os := 0 } : State).oldpin = 1 ∧
    (1 : Bit) ^^^ afterRise.pol = 0 ∧
    exec (.edge 2400 1) { afterRise with os := 0 } = .next
      { afterFall with
        os := 0, nibCount := 0, nibStart := 2400, wordCount := 0, wordStart := 2400,
        out := afterRise.out ++ [{ kind := .leader, startSample := 2300, endSample := 2400, payload := 0 }] } :=
  ⟨by decide, by decide, by decide, by rfl⟩
theorem witness_MinusOneActsAsZero :
    0 ≤ ({ afterFall with os := 0 } : State).zs ∧ ({ afterFall with os := 0 } : State).os = 0 ∧
    exec (.edge 2400 1) { afterFall with os := 0 } = .next { afterFall with os := 0 } := ⟨by decide, by decide, by rfl⟩
/-- PUSH_BIT's premises, with a nibble not yet complete and with one bit missing. -/
theorem witness_PushBit :
    afterRise.endian = 0 ∧ afterRise.nibValue.toNat < 2 ^ afterRise.nibCount.toNat ∧
    (7 : BitVec 4).toNat < 2 ^ (3 : BitVec 2).toNat ∧
    ({ afterRise with endian := 1 } : State).endian = 1 ∧ afterRise.wordValue < 2 ^ afterRise.wordCount := by decide
theorem witness_BitsMakeTheWord : State.reset.endian = 0 ∧ ({ State.reset with endian := 1 } : State).endian = 1 := by decide
theorem witness_FiniteWordWidth : afterRise.wordCount < 2 ∧ 1 ≤ afterRise.wordCount := by decide
/-- EMIT_WORD's second clause: a leadout. -/
theorem witness_EmitWordResult :
    2 * (gapAfter 9620 1278).os ≤ (gapAfter 9620 1278).highwidth.toNat ∧
    20 * (gapAfter 9620 1278).zs ≤ (gapAfter 9620 1278).lowwidth.toNat ∧
    ((gapAfter 9620 1278).lowwidth.toNat : Int) < 100 * (gapAfter 9620 1278).zs := by decide
theorem witness_WordText :
    ({ kind := .word, startSample := 0, endSample := 0, payload := 220 } : Event).kind = .word := by decide
theorem witness_WaveIsTheFrontEnd : ∀ r ∈ ([(0, 2000), (1, 300)] : List Run), 0 < r.2 := by decide
theorem witness_WrittenFormReadsBack :
    (Instr.edge 2000 1).isStimulus = true ∧
    written (.edge 2000 1) = some ['e', 'd', 'g', 'e', ' ', '2', '0', '0', '0', ',', ' ', '1'] := by decide

end Sys2Proof.Tests
end

section
/-! PROOFS. The family of 00_scope.md: what a step runs (R2, 20_memory.md R48). -/

namespace Sys2Proof.Machine

/-- The next input is a stimulus word that decodes (20_memory.md R48): it is consumed as its instruction. -/
theorem fetch_of_decode_ok {s : State} {w : Stimulus} {rest : List Input} {i : Instr}
    (hin : s.inbox = .stimulus w :: rest) (hdec : decode w = .ok i) : fetch s = .instr i rest := by
  simp [fetch, hin, hdec]

/-- A step executes the instruction it fetched on the state with that input consumed. -/
theorem step_of_fetch_instr {s : State} {rest : List Input} {i : Instr}
    (hfetch : fetch s = .instr i rest) : step s = exec i (s.withInbox rest) := by
  simp [step, hfetch]

/-- Settles O5: the fetch of a word that decodes, then the step of a fetched instruction. -/
theorem stepRunsTheDecoded : Obligations.StepRunsTheDecoded :=
  fun _ _ _ _ hin hdec => step_of_fetch_instr (fetch_of_decode_ok hin hdec)

end Sys2Proof.Machine
end

section
/-! PROOFS. The family of 10_state.md: what the status outputs and the event kinds read as (R20 to R22, 30_encoding.md
R65, R67). -/

namespace Sys2Proof.Machine

/-- The host reads the phase by its number, and `ERR` as it stands (R22). -/
theorem State.status_eq (s : State) : s.status = (s.phase.code, s.err) := rfl

/-- Settles O9: each code by its row of the phase and event-kind tables, the outputs by `State.status_eq`. -/
theorem statusCodes : Obligations.StatusCodes :=
  ⟨rfl, rfl, rfl, rfl, rfl, rfl, rfl, rfl, rfl, State.status_eq⟩

end Sys2Proof.Machine
end

section
/-! PROOFS. The family of 30_encoding.md, first part: the reports of a `wave` are those of the raw-sample front end
(R69, 41_edge_tracker.md R113). -/

namespace Sys2Proof.Machine

@[simp] theorem samplesOf_cons (level : Bit) (length : Nat) (runs : List Run) :
    samplesOf ((level, length) :: runs) = List.replicate length level ++ samplesOf runs := rfl

/-- Samples at the level of the sample before them only move the counter on. -/
theorem laterSampleReports_replicate (level : Bit) (n k : Nat) (rest : List Bit) :
    laterSampleReports level n (List.replicate k level ++ rest) = laterSampleReports level (n + k) rest := by
  induction k generalizing n with
  | zero => rfl
  | succ k ih =>
    rw [List.replicate_succ, List.cons_append, laterSampleReports, if_pos rfl, ih, Nat.add_right_comm, Nat.add_assoc]

/-- The front end reports a run at its first sample. -/
theorem sampleReports_run {length : Nat} (hlength : 0 < length) (level : Bit) (n : Nat) (rest : List Bit) :
    sampleReports n (List.replicate length level ++ rest) =
      (n, level) :: laterSampleReports level (n + length) rest := by
  obtain ⟨k, rfl⟩ := Nat.exists_eq_add_one.mpr hlength
  rw [List.replicate_succ, List.cons_append, sampleReports, laterSampleReports_replicate, Nat.add_right_comm,
    Nat.add_assoc]

/-- A change of level is reported as a first sample is. -/
theorem laterSampleReports_run_of_ne {length : Nat} (hlength : 0 < length) {level before : Bit}
    (hchange : level ≠ before) (n : Nat) (rest : List Bit) :
    laterSampleReports before n (List.replicate length level ++ rest) =
      (n, level) :: laterSampleReports level (n + length) rest := by
  rw [← sampleReports_run hlength]
  obtain ⟨k, rfl⟩ := Nat.exists_eq_add_one.mpr hlength
  exact if_neg hchange

/-- The reports of the later runs are those of their samples: a run reports at its first sample or not at all. -/
theorem laterReports_eq_laterSampleReports (before : Bit) (n : Nat) {runs : List Run}
    (hpos : ∀ r ∈ runs, 0 < r.2) :
    laterReports before n runs = laterSampleReports before n (samplesOf runs) := by
  induction runs generalizing before n with
  | nil => rfl
  | cons run rest ih =>
    obtain ⟨level, length⟩ := run
    obtain ⟨hlength, hrest⟩ := List.forall_mem_cons.mp hpos
    rw [laterReports, ih _ _ hrest, ih _ _ hrest, samplesOf_cons]
    split
    case isTrue hsame => rw [hsame, laterSampleReports_replicate]
    case isFalse hchange => rw [laterSampleReports_run_of_ne hlength hchange]

/-- Settles O59: the first run reports at its first sample, the later runs by `laterReports_eq_laterSampleReports`. -/
theorem waveIsTheFrontEnd : Obligations.WaveIsTheFrontEnd := by
  intro first runs hpos
  cases runs with
  | nil => rfl
  | cons run rest =>
    obtain ⟨level, length⟩ := run
    obtain ⟨hlength, hrest⟩ := List.forall_mem_cons.mp hpos
    rw [waveReports, laterReports_eq_laterSampleReports _ _ hrest, samplesOf_cons, sampleReports_run hlength]

end Sys2Proof.Machine
end

section
/-! PROOFS. The family of 30_encoding.md, second part: a written stimulus reads back (R68). First the decimal numbers,
then the words of a line, then the lines. -/

namespace Sys2Proof.Machine

/-- The characters `digitsBefore` puts before `acc` are digits of the base. -/
theorem mem_digitsBefore {base : Nat} (hbase : 0 < base) {digit : Nat → Char} {fuel n : Nat} {acc : List Char}
    {c : Char} (hc : c ∈ digitsBefore base digit fuel n acc) : (∃ d < base, c = digit d) ∨ c ∈ acc := by
  induction fuel generalizing n acc with
  | zero => exact .inr hc
  | succ fuel ih =>
    have hcons : c ∈ digit (n % base) :: acc → (∃ d < base, c = digit d) ∨ c ∈ acc := fun h =>
      (List.mem_cons.mp h).imp_left fun hd => ⟨n % base, Nat.mod_lt n hbase, hd⟩
    rw [digitsBefore] at hc
    split at hc
    · exact hcons hc
    · exact (ih hc).elim .inl hcons

theorem digitValue_hexDigit {d : Nat} (hd : d < 10) : digitValue (hexDigit d) = some d := by
  decide +revert

/-- Reading on through the digits of `n` is reading on from `n`. -/
theorem decimalFrom_digitsBefore {fuel n : Nat} (hfuel : n < fuel) (acc : List Char) :
    decimalFrom 0 (digitsBefore 10 hexDigit fuel n acc) = decimalFrom n acc := by
  induction fuel generalizing n acc with
  | zero => omega
  | succ fuel ih =>
    have hread (v : Nat) : decimalFrom v (hexDigit (n % 10) :: acc) = decimalFrom (10 * v + n % 10) acc := by
      rw [decimalFrom, digitValue_hexDigit (Nat.mod_lt n (by decide))]
    rw [digitsBefore]
    split
    case isTrue hlast => rw [hread, ← hlast, Nat.div_add_mod]
    case isFalse hmore => rw [ih (by omega), hread, Nat.div_add_mod]

theorem digitsBefore_ne_nil (base : Nat) (digit : Nat → Char) (fuel n : Nat) (acc : List Char) :
    digitsBefore base digit (fuel + 1) n acc ≠ [] := by
  induction fuel generalizing n acc with
  | zero => rw [digitsBefore]; split <;> exact List.cons_ne_nil _ _
  | succ fuel ih =>
    rw [digitsBefore]
    split
    · exact List.cons_ne_nil _ _
    · exact ih _ _

theorem decimalDigits_ne_nil (n : Nat) : decimalDigits n ≠ [] := digitsBefore_ne_nil 10 hexDigit n n []

/-- The decimal form of a number reads back. -/
@[simp] theorem readDecimal_decimalDigits (n : Nat) : readDecimal (decimalDigits n) = some n := by
  rw [readDecimal, if_neg (by simp [decimalDigits_ne_nil]), decimalDigits,
    decimalFrom_digitsBefore (Nat.lt_succ_self n), decimalFrom]

/-- A word that is no number is not the decimal form of one. -/
theorem decimalDigits_ne {n : Nat} {w : List Char} (hw : readDecimal w = none) : decimalDigits n ≠ w := by
  rintro rfl
  simp at hw

@[simp] theorem readWord_decimalDigits (v : Word) : readWord (decimalDigits v.toNat) = some v := by
  simp [readWord, v.isLt]

@[simp] theorem readPolarity_decimalDigits (v : Word) : readPolarity (decimalDigits v.toNat) = some v := by
  rw [readPolarity, if_neg (decimalDigits_ne (by decide)), if_neg (decimalDigits_ne (by decide)),
    readWord_decimalDigits]

@[simp] theorem readOrder_decimalDigits (v : Word) : readOrder (decimalDigits v.toNat) = some v := by
  rw [readOrder, if_neg (decimalDigits_ne (by decide)), if_neg (decimalDigits_ne (by decide)),
    readWord_decimalDigits]

/-- A word of a line (R68): a character or more, no gap among them, and no start of a comment. -/
structure IsLineWord (w : List Char) : Prop where
  ne_nil : w ≠ []
  no_gap : ∀ c ∈ w, isGap c = false
  no_comment : ∀ c ∈ w, (c != ';') = true

theorem hexDigit_no_gap_no_comment {d : Nat} (hd : d < 10) :
    isGap (hexDigit d) = false ∧ (hexDigit d != ';') = true := by
  decide +revert

theorem isLineWord_decimalDigits (n : Nat) : IsLineWord (decimalDigits n) := by
  have hchars : ∀ c ∈ decimalDigits n, isGap c = false ∧ (c != ';') = true := by
    intro c hc
    obtain ⟨d, hd, rfl⟩ | hnil := mem_digitsBefore (by decide) hc
    · exact hexDigit_no_gap_no_comment hd
    · exact absurd hnil List.not_mem_nil
  exact ⟨decimalDigits_ne_nil n, fun c hc => (hchars c hc).1, fun c hc => (hchars c hc).2⟩

theorem isLineWord_registerName (reg : Nat) : IsLineWord (registerName reg) := by
  unfold registerName
  split <;> constructor <;> simp [isGap]

/-- The reader takes the characters of a word one by one onto the word being read. -/
theorem wordsFrom_append {w : List Char} (hw : ∀ c ∈ w, isGap c = false) (current rest : List Char) :
    wordsFrom current (w ++ rest) = wordsFrom (w.reverse ++ current) rest := by
  induction w generalizing current with
  | nil => rfl
  | cons c w ih =>
    obtain ⟨hc, hw⟩ := List.forall_mem_cons.mp hw
    simp [wordsFrom, hc, ih hw]

/-- A word that a gap ends is the first word of the line. -/
theorem wordsFrom_word_gap {w : List Char} (hw : IsLineWord w) {gap : Char} (hgap : isGap gap = true)
    (rest : List Char) :
    wordsFrom [] (w ++ gap :: rest) = w :: wordsFrom [] rest := by
  simp [wordsFrom_append hw.no_gap, wordsFrom, hgap, hw.ne_nil]

/-- A word at the end of the line. -/
theorem wordsFrom_word {w : List Char} (hw : IsLineWord w) : wordsFrom [] w = [w] := by
  simpa [wordsFrom, hw.ne_nil] using wordsFrom_append hw.no_gap [] []

/-- The line of an operation with two operands has three words. -/
theorem lineWords_operation {op a b : List Char} (hop : IsLineWord op) (ha : IsLineWord a) (hb : IsLineWord b) :
    lineWords (op ++ ' ' :: (a ++ ',' :: ' ' :: b)) = [op, a, b] := by
  have hnoComment : ∀ c ∈ op ++ ' ' :: (a ++ ',' :: ' ' :: b), (c != ';') = true := by
    simp only [List.forall_mem_append, List.forall_mem_cons]
    exact ⟨hop.no_comment, rfl, ha.no_comment, rfl, rfl, hb.no_comment⟩
  have hspace : wordsFrom [] (' ' :: b) = wordsFrom [] b := rfl
  rw [lineWords, List.takeWhile_eq_self_iff.mpr hnoComment, wordsFrom_word_gap hop rfl, wordsFrom_word_gap ha rfl,
    hspace, wordsFrom_word hb]

/-- What the reader makes of the line of an operation with two operands, by the operation's name. -/
theorem readLine_operation {op a b : List Char} (hop : IsLineWord op) (ha : IsLineWord a) (hb : IsLineWord b) :
    readLine (op ++ ' ' :: (a ++ ',' :: ' ' :: b)) =
      if op = ['c', 'f', 'g', 'w'] then (readCfgw a b).map some
      else if op = ['e', 'd', 'g', 'e'] then (readEdge a b).map some
      else none := by
  rw [readLine, lineWords_operation hop ha hb]

/-- A written `cfgw` is read as the register and the value it writes. -/
theorem readLine_writtenCfgw (reg : Nat) (value : Word) :
    readLine (writtenCfgw reg value) = (readCfgw (registerName reg) (decimalDigits value.toNat)).map some := by
  have hop : IsLineWord ['c', 'f', 'g', 'w'] := by constructor <;> simp [isGap]
  simpa [writtenCfgw] using
    readLine_operation hop (isLineWord_registerName reg) (isLineWord_decimalDigits value.toNat)

theorem readEdge_decimalDigits (index : Word) (level : Bit) :
    readEdge (decimalDigits index.toNat) (decimalDigits level.toNat) = some (.edge index level) := by
  have hzero : decimalDigits 0 = ['0'] := rfl
  have hone : decimalDigits 1 = ['1'] := rfl
  obtain rfl | rfl : level = 0 ∨ level = 1 := by decide +revert
  · simp [readEdge, hzero]
  · simp [readEdge, hone]

/-- A written `edge` reads back. -/
theorem written_edge_readLine (index : Word) (level : Bit) :
    ∃ line, written (.edge index level) = some line ∧ readLine line = some (some (.edge index level)) := by
  have hop : IsLineWord ['e', 'd', 'g', 'e'] := by constructor <;> simp [isGap]
  refine ⟨_, rfl, ?_⟩
  simpa [readEdge_decimalDigits] using
    readLine_operation hop (isLineWord_decimalDigits index.toNat) (isLineWord_decimalDigits level.toNat)

/-- Settles O60: a `cfgw` by `readLine_writtenCfgw`, an `edge` by `written_edge_readLine`; the two bare stimuli are
fixed lines. -/
theorem writtenFormReadsBack : Obligations.WrittenFormReadsBack := by
  intro i hstim
  cases i with
  | cfgwPol v | cfgwEnd v | cfgwZt v | cfgwOt v | cfgwTol v | cfgwSr v =>
    exact ⟨_, rfl, by simp [readLine_writtenCfgw, readCfgw, registerName]⟩
  | start | eos => exact ⟨_, rfl, by decide⟩
  | edge index level => exact written_edge_readLine index level
  | _ => cases hstim

end Sys2Proof.Machine
end

section
/-! PROOFS. The family of 40_thresholds_and_configuration.md, first part: the size and the order of the thresholds (R88,
R90). Each threshold is the floor of a natural quotient with 1 added or taken off. -/

namespace Sys2Proof.Machine

@[simp] theorem zeroSamples_zero (sr tol : Nat) : zeroSamples sr 0 tol = 0 := rfl

@[simp] theorem oneSamples_zero (sr tol : Nat) : oneSamples sr 0 tol = 0 := rfl

/-- `ZS` of a duration that is not 0 (R83). -/
theorem zeroSamples_of_ne_zero {zt : Nat} (hzt : zt ≠ 0) (sr tol : Nat) :
    zeroSamples sr zt tol = ((sr * (zt * (100 + tol)) / 100000000 : Nat) : Int) + 1 := by
  simp [zeroSamples, hzt, mul_assoc]

/-- `OS` of a duration that is not 0 (R84). -/
theorem oneSamples_of_ne_zero {ot tol : Nat} (hot : ot ≠ 0) (htol : tol ≤ 100) (sr : Nat) :
    oneSamples sr ot tol = ((sr * (ot * (100 - tol)) / 100000000 : Nat) : Int) - 1 := by
  simp [oneSamples, hot, mul_assoc, Nat.cast_sub htol]

theorem zeroSamples_nonneg (sr zt tol : Nat) : 0 ≤ zeroSamples sr zt tol := by
  by_cases hzt : zt = 0
  · simp [hzt]
  · rw [zeroSamples_of_ne_zero hzt]
    omega

/-- The product under the floor, for 64-bit registers. -/
theorem scaled_product_le {sr duration : Nat} (hsr : sr < 2 ^ 64) (hduration : duration < 2 ^ 64) (percent : Nat) :
    sr * (duration * percent) ≤ 2 ^ 128 * percent := by
  calc sr * (duration * percent) ≤ 2 ^ 64 * (2 ^ 64 * percent) :=
        Nat.mul_le_mul hsr.le (Nat.mul_le_mul_right percent hduration.le)
    _ = 2 ^ 128 * percent := by omega

theorem zeroSamples_lt {sr zt tol : Nat} (hsr : sr < 2 ^ 64) (hzt : zt < 2 ^ 64) (htol : tol ≤ 100) :
    zeroSamples sr zt tol < 2 ^ 110 := by
  by_cases h : zt = 0
  · simp [h]
  · rw [zeroSamples_of_ne_zero h]
    have := scaled_product_le hsr hzt (100 + tol)
    omega

theorem oneSamples_bounds {sr ot tol : Nat} (hsr : sr < 2 ^ 64) (hot : ot < 2 ^ 64) (htol : tol ≤ 100) :
    -1 ≤ oneSamples sr ot tol ∧ oneSamples sr ot tol < 2 ^ 109 := by
  by_cases h : ot = 0
  · simp [h]
  · rw [oneSamples_of_ne_zero h htol]
    have := scaled_product_le hsr hot (100 - tol)
    omega

/-- Settles O29: the floors are at most `2^128 * 200 / 10^8` and `2^128 * 100 / 10^8`. -/
theorem thresholdBounds : Obligations.ThresholdBounds :=
  fun _ _ _ _ hsr hzt hot htol =>
    ⟨zeroSamples_nonneg _ _ _, zeroSamples_lt hsr hzt htol, oneSamples_bounds hsr hot htol⟩

/-- Where the scaled durations are not in order, neither are the thresholds, at any sample rate (R90). -/
theorem oneSamples_lt_zeroSamples {zt ot tol : Nat} (htol : tol ≤ 100) (hzt : zt ≠ 0) (hot : ot ≠ 0)
    (hle : ot * (100 - tol) ≤ zt * (100 + tol)) (sr : Nat) : oneSamples sr ot tol < zeroSamples sr zt tol := by
  have hfloor : sr * (ot * (100 - tol)) / 100000000 ≤ sr * (zt * (100 + tol)) / 100000000 :=
    Nat.div_le_div_right (Nat.mul_le_mul_left sr hle)
  rw [zeroSamples_of_ne_zero hzt, oneSamples_of_ne_zero hot htol]
  omega

/-- One sample rate at which the thresholds are in order is enough to order the scaled durations (R90). -/
theorem scaled_durations_lt {sr zt ot tol : Nat} (htol : tol ≤ 100)
    (hlt : zeroSamples sr zt tol < oneSamples sr ot tol) : zt * (100 + tol) < ot * (100 - tol) := by
  have hnonneg := zeroSamples_nonneg sr zt tol
  have hot : ot ≠ 0 := by
    rintro rfl
    rw [oneSamples_zero] at hlt
    omega
  by_contra hle
  rw [not_lt] at hle
  by_cases hzt : zt = 0
  · have hscaled : ot * (100 - tol) = 0 := by simpa [hzt] using hle
    rw [oneSamples_of_ne_zero hot htol, hscaled] at hlt
    omega
  · exact hlt.not_gt (oneSamples_lt_zeroSamples htol hzt hot hle sr)

/-- From 300 MHz up the two products differ by three whole divisors, so the floors by 3 (R90). -/
theorem zeroSamples_lt_oneSamples {zt ot tol : Nat} (htol : tol ≤ 100)
    (hlt : zt * (100 + tol) < ot * (100 - tol)) {sr : Nat} (hsr : 300000000 ≤ sr) :
    zeroSamples sr zt tol < oneSamples sr ot tol := by
  have hot : ot ≠ 0 := by
    rintro rfl
    omega
  have hproducts : sr * (zt * (100 + tol)) + sr ≤ sr * (ot * (100 - tol)) := Nat.mul_le_mul_left sr hlt
  rw [oneSamples_of_ne_zero hot htol]
  by_cases hzt : zt = 0
  · rw [hzt, zeroSamples_zero]
    omega
  · rw [zeroSamples_of_ne_zero hzt]
    omega

/-- Settles O30: the least sample rate is 300 MHz; the other direction and the second clause compare the floors at one
sample rate. -/
theorem thresholdOrder : Obligations.ThresholdOrder :=
  fun _ _ _ htol =>
    ⟨⟨fun ⟨least, h⟩ => scaled_durations_lt htol (h least le_rfl),
      fun hlt => ⟨300000000, fun _ => zeroSamples_lt_oneSamples htol hlt⟩⟩,
    fun hzt hot hge => oneSamples_lt_zeroSamples htol hzt hot (not_lt.mp hge)⟩

theorem zeroSamples_default (sr : Nat) : zeroSamples sr 400 20 = ((3 * sr / 6250 : Nat) : Int) + 1 := by
  rw [zeroSamples_of_ne_zero (by decide)]
  omega

theorem oneSamples_default (sr : Nat) : oneSamples sr 800 20 = ((4 * sr / 6250 : Nat) : Int) - 1 := by
  rw [oneSamples_of_ne_zero (by decide) (by decide)]
  omega

/-- With the defaults the floors are 3 apart from 17188 Hz up: from 25000 Hz because the quotients are 4 apart, below
it for each value of the smaller floor. -/
theorem default_floors_apart {sr : Nat} (hsr : 17188 ≤ sr) : 3 * sr / 6250 + 3 ≤ 4 * sr / 6250 := by
  by_cases hhigh : 25000 ≤ sr
  · omega
  · have hfloor : 3 * sr / 6250 = 8 ∨ 3 * sr / 6250 = 9 ∨ 3 * sr / 6250 = 10 ∨ 3 * sr / 6250 = 11 := by omega
    omega

/-- Settles O31: `default_floors_apart`, and the two values at 17187 Hz. -/
theorem defaultThresholdOrder : Obligations.DefaultThresholdOrder := by
  refine ⟨fun sr hsr => ?_, by decide, by decide⟩
  have := default_floors_apart hsr
  rw [zeroSamples_default, oneSamples_default]
  omega

/-- What 111 bits hold, sign included. -/
theorem thresholdFits_111 {x : Int} (hlow : -(2 ^ 110) ≤ x) (hhigh : x < 2 ^ 110) :
    thresholdFits (some 111) x = true := by
  simp only [thresholdFits, decide_eq_true_eq]
  omega

/-- On a core with 111-bit thresholds THRESH does what the normative core does, for every legal tolerance (R88). -/
theorem thresh_eq_normative {s : State} (htol : s.tol.toNat ≤ 100) (wordWidth : Option Nat) :
    s.thresh { wordWidth, thrWidth := some 111 } = s.thresh Config.normative := by
  have hzs := zeroSamples_nonneg s.sr.toNat s.zt.toNat s.tol.toNat
  have hzs' := zeroSamples_lt s.sr.isLt s.zt.isLt htol
  obtain ⟨hos, hos'⟩ := oneSamples_bounds s.sr.isLt s.ot.isLt htol
  have hfitsZero := thresholdFits_111 (by omega) hzs'
  have hfitsOne := thresholdFits_111 (by omega) (hos'.trans (by decide))
  rw [thresh_normative]
  simp only [State.thresh, hfitsZero, hfitsOne, Bool.and_self, if_true]

/-- Settles O32: `start` reaches the threshold width only through THRESH. -/
theorem thresholdWidthSuffices : Obligations.ThresholdWidthSuffices := by
  intro s wordWidth htol
  change s.start _ = s.start Config.normative
  have hthresh := thresh_eq_normative (s := s.clearRun) htol wordWidth
  simp only [State.start, hthresh]

end Sys2Proof.Machine
end

section
/-! PROOFS. The family of 40_thresholds_and_configuration.md, second part: what an `edge` emits, and the limits of that
at the smallest thresholds (R91, R92). -/

namespace Sys2Proof.Machine

theorem newEvents_of_out_eq_append {s t : State} {new : List Event} (h : t.out = s.out ++ new) :
    s.newEvents t = new := by
  simp [State.newEvents, h]

/-- The events of a falling edge, by what the pulse is (R125, R129). -/
theorem fall_newEvents_cases (s : State) (now : Word) :
    let pulse := decidePulse s.zs s.os s.lowwidth.toNat (now - s.rising).toNat
    let new := s.newEvents ((s.recordFall now (now - s.rising)).classifyHigh now)
    (pulse = .ordinary ∧ new = []) ∨
    (pulse = .leadin ∧ new = [⟨.leader, s.rising, now, 0⟩]) ∨
    (pulse = .leadout ∧ new = [⟨.leader, s.rising, now, 1⟩, ⟨.word, s.wordStart, now, s.wordValue⟩]) := by
  rcases classifyHigh_cases (s.recordFall now (now - s.rising)) now with ⟨hd, h⟩ | ⟨hd, h⟩ | ⟨hd, h⟩
  · exact .inl ⟨hd, newEvents_of_out_eq_append (by simp [h])⟩
  · exact .inr (.inl ⟨hd, newEvents_of_out_eq_append (by simp [h])⟩)
  · exact .inr (.inr ⟨hd, newEvents_of_out_eq_append (by simp [h])⟩)

/-- PUSH_BIT appends Hex events only (R144). -/
theorem pushed_out_eq_append (s : State) (b : Bit) (now : Word) :
    ∃ hex : List Event, (s.pushed b now).out = s.out ++ hex ∧ ∀ e ∈ hex, e.kind = .hex := by
  rcases pushed_cases s b now with ⟨_, h⟩ | ⟨_, h⟩
  · exact ⟨[], by simp [h]⟩
  · exact ⟨_, by rw [h, State.completeNibble_out, State.shiftIn_out], by simp⟩

/-- Everything an `edge` can emit, with the decision that emitted it (R124, R129, R144, R147). -/
theorem edge_newEvents_cases {s t : State} {index : Word} {level : Bit} (h : exec (.edge index level) s = .next t) :
    s.newEvents t = [] ∨
    (decidePulse s.zs s.os s.lowwidth.toNat (index - s.rising).toNat = .leadin ∧
      s.newEvents t = [⟨.leader, s.rising, index, 0⟩]) ∨
    (decidePulse s.zs s.os s.lowwidth.toNat (index - s.rising).toNat = .leadout ∧
      s.newEvents t = [⟨.leader, s.rising, index, 1⟩, ⟨.word, s.wordStart, index, s.wordValue⟩]) ∨
    ∃ b hex, decideBit s.zs s.os (index - s.falling).toNat s.highwidth.toNat = some b ∧
      s.newEvents t = ⟨.bit, s.rising, index, b.toNat⟩ :: hex ∧ ∀ e ∈ hex, e.kind = .hex := by
  rcases edge_next_cases h with hout | ⟨_, _, _, _, rfl⟩ | ⟨_, _, _, _, b, hb, rfl⟩
  · exact .inl (newEvents_of_out_eq_append (by simp [hout]))
  · rcases fall_newEvents_cases s index with ⟨_, h⟩ | h | h
    · exact .inl h
    · exact .inr (.inl h)
    · exact .inr (.inr (.inl h))
  · obtain ⟨hex, hout, hhex⟩ := pushed_out_eq_append
      ((s.recordRise index (index - s.falling)).emit .bit s.rising index b.toNat) b index
    exact .inr (.inr (.inr ⟨b, hex, hb, newEvents_of_out_eq_append (by simp [hout]), hhex⟩))

/-- With `ZS = 0` no gap is long enough and short enough for a leadout (R91). -/
theorem decidePulse_zs_zero_ne_leadout (os : Int) (low high : Nat) : decidePulse 0 os low high ≠ .leadout := by
  rw [Ne, decidePulse_eq_leadout_iff]
  omega

/-- With `ZS = 0` no gap is short enough for a bit 0 (R91). -/
theorem eq_one_of_decideBit_zs_zero {os : Int} {low high : Nat} {b : Bit} (h : decideBit 0 os low high = some b) :
    b = 1 := by
  refine (bit_zero_or_one b).resolve_left ?_
  rintro rfl
  have := decideBit_eq_zero_iff.mp h
  omega

/-- Settles O47: `ZS = 0` takes the leadout, with its Word, and the bit 0 out of what an `edge` can emit. -/
theorem zeroThresholdZero : Obligations.ZeroThresholdZero := by
  intro s t index level hzs hedge
  rcases edge_newEvents_cases hedge with hnew | ⟨_, hnew⟩ | ⟨hpulse, _⟩ | ⟨b, hex, hb, hnew, hhex⟩
  · simp [hnew]
  · simp [hnew]
  · exact absurd (hzs ▸ hpulse) (decidePulse_zs_zero_ne_leadout _ _ _)
  · have hone : b = 1 := eq_one_of_decideBit_zs_zero (hzs ▸ hb)
    simp +contextual [hnew, hhex, hone]

/-- With `OS <= 0` the gap of a bit 1 would be no gap at all (R92). -/
theorem eq_zero_of_decideBit_os_nonpos {zs os : Int} (hzs : 0 ≤ zs) (hos : os ≤ 0) {low high : Nat} {b : Bit}
    (h : decideBit zs os low high = some b) : b = 0 := by
  refine (bit_zero_or_one b).resolve_right ?_
  rintro rfl
  have := decideBit_eq_one_iff.mp h
  omega

/-- With `OS <= 0` every pulse is long enough for a leader (R92). -/
theorem decidePulse_os_nonpos_ne_ordinary {os : Int} (hos : os ≤ 0) (zs : Int) (low high : Nat) :
    decidePulse zs os low high ≠ .ordinary := by
  rw [Ne, decidePulse_eq_ordinary_iff]
  omega

/-- A falling edge that answers a next state is FALL (R100, R104). -/
theorem eq_classifyHigh_of_falling {s t : State} {index : Word} {level : Bit} (hphase : s.phase = .running)
    (hold : s.oldpin = 1) (hlevel : level ^^^ s.pol = 0) (h : exec (.edge index level) s = .next t) :
    t = (s.recordFall index (index - s.rising)).classifyHigh index := by
  rw [exec_edge] at h
  rcases edge_cases s index level with ⟨hp, _⟩ | ⟨_, hp, _⟩ | ⟨_, hl, _⟩ | ⟨_, _, _, h2⟩ |
    ⟨_, _, _, _, h2⟩ | ⟨_, ho, _⟩
  · simp [hphase] at hp
  · exact absurd hphase hp
  · simp [hlevel, hold] at hl
  · simp [h2] at h
  · exact (fall_eq_next_iff.mp (h2 ▸ h)).2
  · simp [hold] at ho

/-- Settles O48: `OS <= 0` takes the bit 1 out of what an `edge` can emit, and the ordinary pulse out of FALL. -/
theorem oneThresholdNotPositive : Obligations.OneThresholdNotPositive := by
  intro s t index level hos hzs hphase hedge
  constructor
  · rcases edge_newEvents_cases hedge with hnew | ⟨_, hnew⟩ | ⟨_, hnew⟩ | ⟨b, hex, hb, hnew, hhex⟩
    · simp [hnew]
    · simp [hnew]
    · simp [hnew]
    · have hzero : b = 0 := eq_zero_of_decideBit_os_nonpos hzs hos hb
      simp +contextual [hnew, hhex, hzero]
  · intro hold hlevel
    rw [eq_classifyHigh_of_falling hphase hold hlevel hedge]
    rcases fall_newEvents_cases s index with ⟨hpulse, _⟩ | ⟨_, hnew⟩ | ⟨_, hnew⟩
    · exact absurd hpulse (decidePulse_os_nonpos_ne_ordinary hos _ _ _)
    · simp [hnew]
    · simp [hnew]

end Sys2Proof.Machine
end

section
/-! PROOFS. The family of 40_thresholds_and_configuration.md, third part: the edge tracker and the classifier read `OS`
only through the two decisions (R120, R125), so two values of `OS` that decide alike act alike (R89). -/

namespace Sys2Proof.Machine

/-- The state with another one threshold. -/
def State.withOs (s : State) (x : Int) : State := { s with os := x }

section

variable (s : State) (x : Int)

@[simp] theorem State.withOs_pol : (s.withOs x).pol = s.pol := rfl
@[simp] theorem State.withOs_zs : (s.withOs x).zs = s.zs := rfl
@[simp] theorem State.withOs_os : (s.withOs x).os = x := rfl
@[simp] theorem State.withOs_phase : (s.withOs x).phase = s.phase := rfl
@[simp] theorem State.withOs_oldpin : (s.withOs x).oldpin = s.oldpin := rfl
@[simp] theorem State.withOs_lastpos : (s.withOs x).lastpos = s.lastpos := rfl
@[simp] theorem State.withOs_falling : (s.withOs x).falling = s.falling := rfl
@[simp] theorem State.withOs_rising : (s.withOs x).rising = s.rising := rfl
@[simp] theorem State.withOs_highwidth : (s.withOs x).highwidth = s.highwidth := rfl
@[simp] theorem State.withOs_lowwidth : (s.withOs x).lowwidth = s.lowwidth := rfl
@[simp] theorem State.withOs_nibCount : (s.withOs x).nibCount = s.nibCount := rfl

end

/-- What a step answers, with another one threshold in the next state. -/
def Result.withOs (x : Int) : Result → Result
  | .next t => .next (t.withOs x)
  | .fault f => .fault f
  | .refused r => .refused r

/-- With the zero threshold `zs`, the one thresholds `x` and `y` decide every pulse and every gap alike. -/
structure DecideAlike (zs x y : Int) : Prop where
  /-- The leader detector's decision (R125). -/
  pulse (low high : Nat) : decidePulse zs x low high = decidePulse zs y low high
  /-- The bit classifier's decision (R120). -/
  bit (low high : Nat) : decideBit zs x low high = decideBit zs y low high

/-- The one thresholds -1 and 0 both make every pulse a leader and no gap a bit 1 (R89, R92). -/
theorem decideAlike_neg_one_zero {zs : Int} (hzs : 0 ≤ zs) : DecideAlike zs (-1) 0 where
  pulse low high := by
    have hlong {os : Int} (hos : os ≤ 0) : 2 * os ≤ (high : Int) := by omega
    rw [decidePulse, decidePulse, if_pos (hlong (by decide)), if_pos (hlong le_rfl)]
  bit low high := by
    have hnotOne {os : Int} (hos : os ≤ 0) :
        ¬ (zs < low ∧ 2 * (low : Int) ≤ 3 * os ∧ (high : Int) ≤ 2 * os) := by
      omega
    rw [decideBit, decideBit, if_neg (hnotOne (by decide)), if_neg (hnotOne le_rfl)]

theorem pushed_withOs (s : State) (x : Int) (b : Bit) (now : Word) :
    (s.withOs x).pushed b now = (s.pushed b now).withOs x := by
  rw [State.pushed, State.pushed, State.withOs_nibCount]
  split <;> rfl

section

variable {s : State} {x : Int}

theorem classifyLow_withOs (halike : DecideAlike s.zs x s.os) (now : Word) :
    (s.withOs x).classifyLow Config.normative now = Result.withOs x (s.classifyLow Config.normative now) := by
  rw [State.classifyLow, State.classifyLow, State.withOs_zs, State.withOs_os, State.withOs_lowwidth,
    State.withOs_highwidth, halike.bit]
  split
  case h_1 b _ => exact congrArg Host.Outcome.next (pushed_withOs (s.emit .bit s.lastrising s.rising b.toNat) x b now)
  case h_2 => rfl

theorem classifyHigh_withOs (halike : DecideAlike s.zs x s.os) (now : Word) :
    (s.withOs x).classifyHigh now = (s.classifyHigh now).withOs x := by
  rw [State.classifyHigh, State.classifyHigh, State.withOs_zs, State.withOs_os, State.withOs_lowwidth,
    State.withOs_highwidth, halike.pulse]
  split <;> rfl

theorem fall_withOs (halike : DecideAlike s.zs x s.os) (now : Word) :
    (s.withOs x).fall now = Result.withOs x (s.fall now) := by
  rw [State.fall, State.fall, State.withOs_rising]
  split
  case h_1 high _ => exact congrArg Host.Outcome.next (classifyHigh_withOs (s := s.recordFall now high) halike now)
  case h_2 => rfl

theorem rise_withOs (halike : DecideAlike s.zs x s.os) (now : Word) :
    (s.withOs x).rise Config.normative now = Result.withOs x (s.rise Config.normative now) := by
  rw [State.rise, State.rise, State.withOs_falling]
  split
  case h_1 low _ => exact classifyLow_withOs (s := s.recordRise now low) halike now
  case h_2 => rfl

theorem report_withOs (halike : DecideAlike s.zs x s.os) (index : Word) (lvl : Bit) :
    (s.withOs x).report Config.normative index lvl = Result.withOs x (s.report Config.normative index lvl) := by
  rw [State.report, State.report, State.withOs_oldpin, State.withOs_lastpos, fall_withOs halike, rise_withOs halike]
  cases direction s.oldpin lvl with
  | unchanged => rfl
  | falling => dsimp only; split <;> rfl
  | rising => dsimp only; split <;> rfl

/-- An `edge` sees `OS` only through the decisions (R100, R120, R125). -/
theorem edge_withOs (halike : DecideAlike s.zs x s.os) (index : Word) (level : Bit) :
    exec (.edge index level) (s.withOs x) = Result.withOs x (exec (.edge index level) s) := by
  rw [exec_edge, exec_edge, State.edge, State.edge, State.withOs_phase, State.withOs_pol, report_withOs halike]
  cases s.phase <;> rfl

end

/-- Settles O49: -1 and 0 decide alike, and an `edge` sees `OS` only through the decisions. -/
theorem minusOneActsAsZero : Obligations.MinusOneActsAsZero := by
  intro s t index level hzs hos hedge
  have halike : DecideAlike s.zs (-1) s.os := hos ▸ decideAlike_neg_one_zero hzs
  exact (edge_withOs halike index level).trans (congrArg (Result.withOs (-1)) hedge)

end Sys2Proof.Machine
end

section
/-! PROOFS. The family of 41_edge_tracker.md, first part: the core waits (R112), and what a report of an unchanged level
(R103) and a breach of the sample order (R108) do in RUNNING. -/

namespace Sys2Proof.Machine

/-- With no input offered there is nothing to take (R112). -/
theorem fetch_of_inbox_nil {s : State} (hin : s.inbox = []) : fetch s = .nothing := by
  rw [fetch, hin]

/-- A step that finds nothing changes nothing (R112). -/
theorem step_of_fetch_nothing {s : State} (hfetch : fetch s = .nothing) : step s = .next s := by
  rw [step, hfetch]

/-- Settles O6: with no input left the step finds nothing. -/
theorem stepWaits : Obligations.StepWaits :=
  fun _ hin => step_of_fetch_nothing (fetch_of_inbox_nil hin)

/-- In RUNNING an `edge` is a report of its corrected level (R100, R101). -/
theorem exec_edge_of_running {s : State} (hphase : s.phase = .running) (index : Word) (level : Bit) :
    exec (.edge index level) s = s.report Config.normative index (level ^^^ s.pol) := by
  rw [exec_edge, State.edge, hphase]
  rfl

section

variable {s : State} {lvl : Bit} (p : Config.Params) (index : Word)

theorem report_of_eq_oldpin (hlevel : lvl = s.oldpin) : s.report p index lvl = .next s := by
  rw [State.report, direction_unchanged_iff.mpr hlevel]

/-- Both directions of a changed level have the order check (R108). -/
theorem report_of_lt_lastpos (hlevel : lvl ≠ s.oldpin) (hindex : index < s.lastpos) :
    s.report p index lvl = .refused .sampleOrder := by
  rw [State.report]
  cases hdir : direction s.oldpin lvl with
  | unchanged => exact absurd (direction_unchanged_iff.mp hdir) hlevel
  | falling => exact if_pos hindex
  | rising => exact if_pos hindex

end

/-- Settles O35: in RUNNING the `edge` is a report, and its level is `oldpin`. -/
theorem unchangedLevelDoesNothing : Obligations.UnchangedLevelDoesNothing :=
  fun _ index level hphase hlevel =>
    (exec_edge_of_running hphase index level).trans (report_of_eq_oldpin _ index hlevel)

/-- Settles O36: in RUNNING the `edge` is a report, and both directions check the order. -/
theorem sampleOrderBreachRefused : Obligations.SampleOrderBreachRefused :=
  fun _ index level hphase hlevel hindex =>
    (exec_edge_of_running hphase index level).trans (report_of_lt_lastpos _ index hlevel hindex)

end Sys2Proof.Machine
end

section
/-! PROOFS. The family of 41_edge_tracker.md, second part: what decodes is a stimulus with its operand in range
(30_encoding.md R56, R61, R62). -/

namespace Sys2Proof

/-- A stimulus a host may send: the premises of the round trip of 30_encoding.md section 3. -/
structure Instr.Sendable (i : Instr) : Prop where
  /-- No internal operation. -/
  isStimulus : i.isStimulus = true
  /-- The operand is in range. -/
  wellFormed : i.wellFormed = true

theorem sendable_of_checkedValue_ok {i j : Instr} (hstimulus : i.isStimulus = true) (h : checkedValue i = .ok j) :
    j.Sendable := by
  unfold checkedValue at h
  split at h
  next hrange =>
    cases h
    exact ⟨hstimulus, hrange⟩
  next => cases h

theorem sendable_of_decodeCfgw_ok {sel : BitVec 4} {data : Word} {i : Instr} (h : decodeCfgw sel data = .ok i) :
    i.Sendable := by
  unfold decodeCfgw at h
  split_ifs at h
  · exact sendable_of_checkedValue_ok rfl h
  · exact sendable_of_checkedValue_ok rfl h
  · cases h
    exact ⟨rfl, rfl⟩
  · cases h
    exact ⟨rfl, rfl⟩
  · exact sendable_of_checkedValue_ok rfl h
  · cases h
    exact ⟨rfl, rfl⟩

theorem eq_of_decodeBare_ok {sel : BitVec 4} {data : Word} {i j : Instr} (h : decodeBare i sel data = .ok j) :
    i = j := by
  unfold decodeBare at h
  split_ifs at h
  exact Except.ok.inj h

theorem exists_edge_of_decodeEdge_ok {sel : BitVec 4} {data : Word} {i : Instr} (h : decodeEdge sel data = .ok i) :
    ∃ index level, i = .edge index level := by
  unfold decodeEdge at h
  split_ifs at h
  exact ⟨_, _, (Except.ok.inj h).symm⟩

/-- The decoder answers nothing but what a host may send (R56, R61, R62). -/
theorem sendable_of_decode_ok {w : Stimulus} {i : Instr} (h : decode w = .ok i) : i.Sendable := by
  unfold decode at h
  split_ifs at h
  · exact sendable_of_decodeCfgw_ok h
  · cases eq_of_decodeBare_ok h
    exact ⟨rfl, rfl⟩
  · obtain ⟨_, _, rfl⟩ := exists_edge_of_decodeEdge_ok h
    exact ⟨rfl, rfl⟩
  · cases eq_of_decodeBare_ok h
    exact ⟨rfl, rfl⟩

end Sys2Proof
end

section
/-! PROOFS. The family of 41_edge_tracker.md, third part: from a state with the edge invariant a stimulus completes or
breaks the sample order (R108, 60_exceptions.md R160, R166). -/

namespace Sys2Proof.Machine

/-- The result is a next state in which the host's sequence is the one of `s`. -/
def State.CompletesTo (s : State) (r : Result) : Prop := ∃ t, r = .next t ∧ t.inbox = s.inbox

section

variable {s : State}

theorem completesTo_of_eq_next {r : Result} {t : State} (hr : r = .next t) (hinbox : t.inbox = s.inbox) :
    s.CompletesTo r := ⟨t, hr, hinbox⟩

/-- A `cfgw` with its value in range is written or discarded (R80). -/
theorem configure_completes {written : State} {inRange : Bool} (hrange : inRange = true)
    (hinbox : written.inbox = s.inbox) : s.CompletesTo (s.configure inRange written) := by
  rcases configure_cases s inRange written with ⟨_, _, h⟩ | ⟨_, _, h⟩ | ⟨hout, _⟩
  · exact completesTo_of_eq_next h hinbox
  · exact completesTo_of_eq_next h rfl
  · simp [hrange] at hout

/-- `start` is discarded, raises ConfigurationError or arms the core (R81). -/
theorem start_completes (s : State) : s.CompletesTo (exec .start s) := by
  rcases start_cases s with ⟨_, h⟩ | ⟨_, _, h⟩ | ⟨_, _, h⟩
  · exact completesTo_of_eq_next h rfl
  · exact completesTo_of_eq_next h rfl
  · exact completesTo_of_eq_next h rfl

theorem endRun_completes (s : State) : s.CompletesTo s.endRun := by
  rcases endRun_cases s with ⟨_, h⟩ | ⟨_, _, h⟩
  · exact completesTo_of_eq_next h rfl
  · exact completesTo_of_eq_next h rfl

theorem pushed_inbox (s : State) (b : Bit) (now : Word) : (s.pushed b now).inbox = s.inbox := by
  rcases pushed_cases s b now with ⟨_, h⟩ | ⟨_, h⟩ <;> simp [h]

theorem classifyHigh_inbox (s : State) (now : Word) : (s.classifyHigh now).inbox = s.inbox := by
  rcases classifyHigh_cases s now with ⟨_, h⟩ | ⟨_, h⟩ | ⟨_, h⟩ <;> simp [h]

theorem classifyLow_completes (s : State) (now : Word) : s.CompletesTo (s.classifyLow Config.normative now) := by
  rcases classifyLow_cases s now with ⟨_, h⟩ | ⟨b, _, h⟩
  · exact completesTo_of_eq_next h rfl
  · exact completesTo_of_eq_next h (pushed_inbox _ b now)

/-- FALL completes when the pulse has a width (R104, R107). -/
theorem fall_completes {now : Word} (hrising : s.rising ≤ now) : s.CompletesTo (s.fall now) :=
  completesTo_of_eq_next (fall_eq_next_iff.mpr ⟨hrising, rfl⟩) (classifyHigh_inbox _ now)

/-- RISE completes when the gap has a width (R105, R107). -/
theorem rise_completes {now : Word} (hfalling : s.falling ≤ now) : s.CompletesTo (s.rise Config.normative now) := by
  rcases rise_cases s now with ⟨_, h⟩ | ⟨hlt, _⟩
  · rw [h]
    exact classifyLow_completes (s.recordRise now (now - s.falling)) now
  · exact absurd hfalling (BitVec.not_le.mpr hlt)

/-- While the line is active `lastpos` is the rising edge that made it so (R25, R34). -/
theorem rising_le_lastpos (hedges : s.EdgeInv) (hold : s.oldpin = 1) : s.rising ≤ s.lastpos := by
  obtain ⟨_, _, _, hlast, _⟩ := hedges.1 hold
  exact hlast ▸ BitVec.le_refl _

/-- While the line is inactive `lastpos` is the falling edge that made it so (R25, R34). -/
theorem falling_le_lastpos (hedges : s.EdgeInv) (hold : s.oldpin = 0) : s.falling ≤ s.lastpos := by
  obtain ⟨_, _, _, hlast, _⟩ := hedges.2 hold
  exact hlast ▸ BitVec.le_refl _

end

/-- The one duty of the host that `i` breaks in `s`: in RUNNING, an `edge` of a changed level with an index below
`lastpos` (R108). -/
def State.BreaksSampleOrder (s : State) (i : Instr) : Prop :=
  s.phase = .running ∧ ∃ index level, i = .edge index level ∧ level ^^^ s.pol ≠ s.oldpin ∧ index < s.lastpos

/-- With the edge invariant the order check is the only stop of an `edge`: past it the width is not negative, since the
edge before is at `lastpos` (R107, R108). -/
theorem edge_completes_or_breaks_order {s : State} (hedges : s.phase = .running → s.EdgeInv) (index : Word)
    (level : Bit) :
    s.CompletesTo (exec (.edge index level) s) ∨
    (exec (.edge index level) s = .refused .sampleOrder ∧ s.BreaksSampleOrder (.edge index level)) := by
  rw [exec_edge]
  rcases edge_cases s index level with ⟨_, h⟩ | ⟨_, _, h⟩ | ⟨_, _, h⟩ | ⟨hrun, hlevel, hindex, h⟩ |
    ⟨hrun, hold, _, hindex, h⟩ | ⟨hrun, hold, _, hindex, h⟩
  · exact .inl (completesTo_of_eq_next h rfl)
  · exact .inl (completesTo_of_eq_next h rfl)
  · exact .inl (completesTo_of_eq_next h rfl)
  · exact .inr ⟨h, hrun, index, level, rfl, hlevel, hindex⟩
  · exact .inl (h ▸ fall_completes (BitVec.le_trans (rising_le_lastpos (hedges hrun) hold) hindex))
  · exact .inl (h ▸ rise_completes (BitVec.le_trans (falling_le_lastpos (hedges hrun) hold) hindex))

/-- Of the stimuli only `edge` can stop: the others complete from any state (60_exceptions.md R160, R166). -/
theorem exec_completes_or_breaks_order {s : State} (hedges : s.phase = .running → s.EdgeInv) {i : Instr}
    (hsend : i.Sendable) :
    s.CompletesTo (exec i s) ∨ (exec i s = .refused .sampleOrder ∧ s.BreaksSampleOrder i) := by
  obtain ⟨hstimulus, hrange⟩ := hsend
  cases i
  case cfgwPol | cfgwEnd | cfgwZt | cfgwOt | cfgwTol | cfgwSr => exact .inl (configure_completes hrange rfl)
  case start => exact .inl (start_completes s)
  case edge index level => exact edge_completes_or_breaks_order hedges index level
  case eos => exact .inl (endRun_completes s)
  case thresh | init | rise | fall | classifyLow | classifyHigh | pushBit | accReset | emitWord => cases hstimulus

/-- Settles O14: the step executes what it decoded, which a host may send, with the input consumed. -/
theorem nothingElseFails : Obligations.NothingElseFails := by
  intro s w rest i hinv hin hdec
  rw [step_of_fetch_instr (fetch_of_decode_ok hin hdec)]
  exact exec_completes_or_breaks_order (s := s.withInbox rest) hinv.edges (sendable_of_decode_ok hdec)

end Sys2Proof.Machine
end

section
/-! PROOFS. The family of 42_bit_classifier.md: what CLASSIFY_LOW does with a gap (R120 to R124), and the bits an `edge`
emits after a long pulse (R134). -/

namespace Sys2Proof.Machine

section

variable {s : State}

/-- A decided bit is emitted with the span between the two rising edges, then pushed (R124). -/
theorem classifyLow_of_decideBit_eq_some {b : Bit}
    (hbit : decideBit s.zs s.os s.lowwidth.toNat s.highwidth.toNat = some b) (now : Word) :
    s.classifyLow Config.normative now = .next ((s.emit .bit s.lastrising s.rising b.toNat).pushed b now) := by
  simp only [State.classifyLow, hbit, pushBit_normative]

theorem classifyLow_of_decideBit_eq_none (hnone : decideBit s.zs s.os s.lowwidth.toNat s.highwidth.toNat = none)
    (now : Word) : s.classifyLow Config.normative now = .next s := by
  simp only [State.classifyLow, hnone]

end

/-- Settles O44: both kinds of gap decide `b` (R121, R122), and a decided bit is emitted and pushed. -/
theorem classifyLowDecides : Obligations.ClassifyLowDecides := by
  intro s now b hgap
  have hbit : decideBit s.zs s.os s.lowwidth.toNat s.highwidth.toNat = some b := by
    rcases hgap with ⟨rfl, hone⟩ | ⟨rfl, hzero⟩
    · exact decideBit_eq_one_iff.mpr hone
    · exact decideBit_eq_zero_iff.mpr hzero
  exact ⟨_, exec_pushBit _ now b, (exec_classifyLow s now).trans (classifyLow_of_decideBit_eq_some hbit now)⟩

/-- Settles O45: R123's three kinds of gap are exactly those the classifier leaves undecided. -/
theorem classifyLowNoDecision : Obligations.ClassifyLowNoDecision :=
  fun s now hgap =>
    (exec_classifyLow s now).trans (classifyLow_of_decideBit_eq_none (decideBit_eq_none_iff.mpr hgap) now)

/-- The bits an `edge` emits are those the classifier decided, on the gap the edge ends (R105, R124). -/
theorem decideBit_of_bit_mem_newEvents {s t : State} {index : Word} {level : Bit} {e : Event}
    (hedge : exec (.edge index level) s = .next t) (he : e ∈ s.newEvents t) (hkind : e.kind = .bit) :
    ∃ b, decideBit s.zs s.os (index - s.falling).toNat s.highwidth.toNat = some b ∧ e.payload = b.toNat := by
  rcases edge_newEvents_cases hedge with hnew | ⟨_, hnew⟩ | ⟨_, hnew⟩ | ⟨b, hex, hb, hnew, hhex⟩ <;> rw [hnew] at he
  · cases he
  · obtain rfl := List.mem_singleton.mp he
    cases hkind
  · rcases List.mem_pair.mp he with rfl | rfl
    · cases hkind
    · cases hkind
  · rcases List.mem_cons.mp he with rfl | hmem
    · exact ⟨b, hb, rfl⟩
    · cases hkind.symm.trans (hhex e hmem)

/-- A pulse longer than `2 * OS` fails the third condition of a bit 1 (R121, R134). -/
theorem eq_zero_of_decideBit_long_pulse {zs os : Int} {low high : Nat} {b : Bit} (hlong : 2 * os < (high : Int))
    (hbit : decideBit zs os low high = some b) : b = 0 := by
  refine (bit_zero_or_one b).resolve_right ?_
  rintro rfl
  obtain ⟨_, _, hshort⟩ := decideBit_eq_one_iff.mp hbit
  exact absurd hshort (not_le.mpr hlong)

/-- Settles O46: an emitted bit was decided with the pulse's width, which rules out 1. In any line state this holds, as
RISE leaves `highwidth` alone and FALL emits no bit, so the premise on `oldpin` is not used. -/
theorem noOneAfterALongPulse : Obligations.NoOneAfterALongPulse := by
  intro s t index level hlong _ hedge e he hkind
  obtain ⟨b, hbit, hpayload⟩ := decideBit_of_bit_mem_newEvents hedge he hkind
  rw [hpayload, eq_zero_of_decideBit_long_pulse hlong hbit]
  rfl

end Sys2Proof.Machine
end

section
/-! PROOFS. The family of 43_word_accumulator.md, first part: PUSH_BIT as numbers, in little and in big order (R140 to
R144), and on a core with a finite word register (R153). -/

namespace Sys2Proof.Machine

/-- Little order: the bits held move up by one position and the new bit is below them (R141). -/
theorem pushWord_of_little {endian : Bit} (hlittle : endian = 0) (b : Bit) (count value : Nat) :
    pushWord endian b count value = 2 * value + b.toNat := by
  rw [pushWord, if_pos hlittle, ← Nat.shiftLeft_add_eq_or_of_lt b.isLt, Nat.shiftLeft_eq, pow_one, mul_comm]

/-- Big order: the new bit is above the bits held (R142). -/
theorem pushWord_of_big {endian : Bit} (hbig : endian = 1) (b : Bit) {count value : Nat} (hvalue : value < 2 ^ count) :
    pushWord endian b count value = value + b.toNat * 2 ^ count := by
  rw [pushWord, if_neg ((bit_ne_zero_iff endian).mpr hbig), Nat.or_comm, ← Nat.shiftLeft_add_eq_or_of_lt hvalue,
    Nat.shiftLeft_eq, add_comm]

/-- In either order a value that fits its count fits the count after the push (R34 (b)). -/
theorem pushWord_lt (endian b : Bit) {count value : Nat} (hvalue : value < 2 ^ count) :
    pushWord endian b count value < 2 ^ (count + 1) := by
  have hb := bit_toNat_le_one b
  rcases bit_zero_or_one endian with hlittle | hbig
  · rw [pushWord_of_little hlittle]
    omega
  · have hbit : b.toNat * 2 ^ count ≤ 1 * 2 ^ count := Nat.mul_le_mul_right _ hb
    rw [pushWord_of_big hbig b hvalue]
    omega

/-- The nibble is pushed as the word is, in four bits (R141, R142). -/
theorem pushNibble_eq_ofNat_pushWord (endian b : Bit) (count : BitVec 2) (value : BitVec 4) :
    pushNibble endian b count value = BitVec.ofNat 4 (pushWord endian b count.toNat value.toNat) := by
  decide +revert

/-- The fourth bit of a nibble that fits its count is not lost (R144). -/
theorem pushNibble_toNat_of_three {endian b : Bit} {count : BitVec 2} {value : BitVec 4} (hcount : count = 3)
    (hvalue : value.toNat < 2 ^ count.toNat) :
    (pushNibble endian b count value).toNat = pushWord endian b count.toNat value.toNat := by
  have hlt : pushWord endian b count.toNat value.toNat < 2 ^ 4 := by
    simpa [hcount] using pushWord_lt endian b hvalue
  rw [pushNibble_eq_ofNat_pushWord, BitVec.toNat_ofNat, Nat.mod_eq_of_lt hlt]

/-- PUSH_BIT's next state, from the numbers the nibble and the word become (R140, R144, R149). -/
theorem exec_pushBit_of_pushWord_eq {s : State} {b : Bit} {nibble word : Nat} (now : Word)
    (hfits : s.nibValue.toNat < 2 ^ s.nibCount.toNat)
    (hnibble : pushWord s.endian b s.nibCount.toNat s.nibValue.toNat = nibble)
    (hword : pushWord s.endian b s.wordCount s.wordValue = word) :
    exec (.pushBit b now) s = .next
      (if s.nibCount = 3 then
        { s with
          nibValue := 0, nibCount := 0, nibStart := now, wordValue := word, wordCount := s.wordCount + 1,
          out := s.out ++ [{ kind := .hex, startSample := s.nibStart, endSample := now, payload := nibble }] }
      else
        { s with
          nibValue := BitVec.ofNat 4 nibble, nibCount := s.nibCount + 1,
          wordValue := word, wordCount := s.wordCount + 1 }) := by
  subst hnibble hword
  rw [exec_pushBit]
  rcases pushed_cases s b now with ⟨hcount, hpushed⟩ | ⟨hcount, hpushed⟩
  · rw [hpushed, if_neg hcount, ← pushNibble_eq_ofNat_pushWord]
    rfl
  · rw [hpushed, if_pos hcount, ← pushNibble_toNat_of_three hcount hfits]
    rfl

/-- Settles O50: in little order both numbers are doubled and take the bit. -/
theorem pushBitLittle : Obligations.PushBitLittle :=
  fun _ b now hlittle hfits =>
    exec_pushBit_of_pushWord_eq now hfits (pushWord_of_little hlittle b _ _) (pushWord_of_little hlittle b _ _)

/-- Settles O51: in big order both numbers take the bit at the position of their count. -/
theorem pushBitBig : Obligations.PushBitBig :=
  fun _ b now hbig hfits hword =>
    exec_pushBit_of_pushWord_eq now hfits (pushWord_of_big hbig b hfits) (pushWord_of_big hbig b hword)

theorem wordFits_some_iff {n count : Nat} : wordFits (some n) count = true ↔ count ≤ n := decide_eq_true_iff

/-- Settles O56: a finite core checks the count after the push against its width. -/
theorem finiteWordWidth : Obligations.FiniteWordWidth :=
  fun s _ _ b now =>
    ⟨fun hbelow => (if_pos (wordFits_some_iff.mpr hbelow)).trans (exec_pushBit s now b).symm,
      fun hfull => if_neg (mt wordFits_some_iff.mp (Nat.not_le.mpr (Nat.lt_succ_of_le hfull)))⟩

end Sys2Proof.Machine
end

section
/-! PROOFS. The family of 43_word_accumulator.md, second part: EMIT_WORD, alone and at a leadout (R146, R147). -/

namespace Sys2Proof.Machine

/-- A leadout emits its Leader event, then the Word event (R126, R129, R147). -/
theorem classifyHigh_of_decidePulse_eq_leadout {s : State}
    (hleadout : decidePulse s.zs s.os s.lowwidth.toNat s.highwidth.toNat = .leadout) (now : Word) :
    s.classifyHigh now = (s.emit .leader s.rising now 1).emitWord now := by
  simp only [State.classifyHigh, hleadout]

/-- Settles O53: EMIT_WORD's state by definition, and R126's three conditions make the pulse a leadout. -/
theorem emitWordResult : Obligations.EmitWordResult := by
  refine fun s now => ⟨exec_emitWord s now, fun hhigh hgapLow hgapHigh => ?_⟩
  have hleadout := decidePulse_eq_leadout_iff.mpr ⟨hhigh, hgapLow, hgapHigh⟩
  refine ⟨⟨.leader, s.rising, now, 1⟩, rfl, ?_⟩
  rw [exec_classifyHigh, classifyHigh_of_decidePulse_eq_leadout hleadout, exec_emitWord]
  rfl

end Sys2Proof.Machine
end

section
/-! PROOFS. The family of 43_word_accumulator.md, third part: the text of a payload (R150). -/

namespace Sys2Proof.Machine

section

variable {d : Nat}

theorem hexDigit_lowercase (hd : d < 16) :
    ('0' ≤ hexDigit d ∧ hexDigit d ≤ '9') ∨ ('a' ≤ hexDigit d ∧ hexDigit d ≤ 'f') := by
  decide +revert

theorem hexValue_hexDigit (hd : d < 16) : hexValue (hexDigit d) = d := by
  decide +revert

theorem eq_zero_of_hexDigit_eq (hd : d < 16) (h : hexDigit d = '0') : d = 0 := by
  rw [← hexValue_hexDigit hd, h]
  rfl

end

/-- A hexadecimal text read on from the value `v` of the digits before. -/
def hexFrom (v : Nat) (digits : List Char) : Nat := digits.foldl (fun v d => 16 * v + hexValue d) v

/-- Reading on through the hexadecimal digits of `n` is reading on from `n`. -/
theorem hexFrom_digitsBefore {fuel n : Nat} (hfuel : n < fuel) (acc : List Char) :
    hexFrom 0 (digitsBefore 16 hexDigit fuel n acc) = hexFrom n acc := by
  induction fuel generalizing n acc with
  | zero => omega
  | succ fuel ih =>
    have hread (v : Nat) : hexFrom v (hexDigit (n % 16) :: acc) = hexFrom (16 * v + n % 16) acc := by
      rw [hexFrom, List.foldl_cons, hexValue_hexDigit (Nat.mod_lt n (by decide)), hexFrom]
    rw [digitsBefore]
    split
    case isTrue hlast => rw [hread, ← hlast, Nat.div_add_mod]
    case isFalse hmore => rw [ih (by omega), hread, Nat.div_add_mod]

/-- The first of the digits of `n` is 0 only if it is the only one. -/
theorem digitsBefore_leading {base : Nat} (hbase : 1 < base) (digit : Nat → Char) {fuel n : Nat} (hfuel : n < fuel)
    (acc : List Char) :
    ∃ d < base, ∃ rest, digitsBefore base digit fuel n acc = digit d :: rest ∧ (d = 0 → n = 0 ∧ rest = acc) := by
  induction fuel generalizing n acc with
  | zero => omega
  | succ fuel ih =>
    rw [digitsBefore]
    split
    case isTrue hlast =>
      have hmod : n % base = n := by simpa [hlast] using Nat.div_add_mod n base
      exact ⟨n % base, Nat.mod_lt n (by omega), acc, rfl, fun hzero => ⟨hmod.symm.trans hzero, rfl⟩⟩
    case isFalse hmore =>
      have hpos : 0 < n := Nat.pos_of_ne_zero fun hzero => hmore (by rw [hzero, Nat.zero_div])
      have hless : n / base < n := Nat.div_lt_self hpos hbase
      obtain ⟨d, hd, rest, heq, hzero⟩ := ih (n := n / base) (by omega) (digit (n % base) :: acc)
      exact ⟨d, hd, rest, heq, fun h => absurd (hzero h).1 hmore⟩

/-- Settles O57: the digits are of base 16, they read back, and a leading 0 stands alone. -/
theorem wordText : Obligations.WordText := by
  intro e hkind
  obtain ⟨d, hd, digits, heq, hzero⟩ :=
    digitsBefore_leading (base := 16) (by decide) hexDigit (Nat.lt_succ_self e.payload) []
  refine ⟨hexDigit d, digits, ?_, fun c hc => ?_, ?_, fun hc => hzero (eq_zero_of_hexDigit_eq hd hc)⟩
  · rw [← heq, Event.textChars, hkind, hexDigits]
  · rw [← heq] at hc
    obtain ⟨d', hd', rfl⟩ := (mem_digitsBefore (by decide) hc).resolve_right List.not_mem_nil
    exact hexDigit_lowercase hd'
  · rw [← heq]
    exact hexFrom_digitsBefore (Nat.lt_succ_self e.payload) []

/-- A value below 16 has one digit. -/
theorem hexDigits_of_lt {n : Nat} (hn : n < 16) : hexDigits n = [hexDigit n] := by
  rw [hexDigits, digitsBefore, if_pos (Nat.div_eq_of_lt hn), Nat.mod_eq_of_lt hn]

/-- Settles O58: a bit and a nibble have one digit (`hexDigits_of_lt`), a leader one of two names. -/
theorem payloadTexts : Obligations.PayloadTexts := by
  refine fun a b => ⟨hexDigits_of_lt (n := 0) (by decide), hexDigits_of_lt (n := 1) (by decide), rfl, rfl, ?_⟩
  have hdigit : ∀ n ∈ List.range 16, Event.textChars ⟨.hex, a, b, n⟩ = [hexDigit n] := fun n hn =>
    hexDigits_of_lt (List.mem_range.mp hn)
  rw [List.map_congr_left hdigit]
  decide

end Sys2Proof.Machine
end

section
/-! PROOFS. The encoding (30_encoding.md R55 to R63): decoding and encoding undo each other, and the reserved words. -/

namespace Sys2Proof

section

variable {i j : Instr} {sel : BitVec 4} {data : Word}

theorem checkedValue_of_wellFormed (hrange : i.wellFormed = true) : checkedValue i = .ok i := if_pos hrange

theorem eq_of_checkedValue_ok (h : checkedValue i = .ok j) : i = j := by
  unfold checkedValue at h
  split_ifs at h
  exact Except.ok.inj h

/-- A `cfgw` word is the encoding of what it decodes to: `sel` is the register's number (R57). -/
theorem encode_of_decodeCfgw_ok (h : decodeCfgw sel data = .ok i) : encode i = some (stimulusWord 1 sel data) := by
  unfold decodeCfgw at h
  split_ifs at h with h0 h1 h2 h3 h4 h5
  · subst h0
    cases eq_of_checkedValue_ok h
    rfl
  · subst h1
    cases eq_of_checkedValue_ok h
    rfl
  · subst h2
    cases h
    rfl
  · subst h3
    cases h
    rfl
  · subst h4
    cases eq_of_checkedValue_ok h
    rfl
  · subst h5
    cases h
    rfl

/-- A word without operand decodes to its operation only with `sel` and `data` 0 (R58, R60, R61). -/
theorem operands_zero_of_decodeBare_ok (h : decodeBare i sel data = .ok j) : sel = 0 ∧ data = 0 := by
  unfold decodeBare at h
  split_ifs at h with hzero
  exact hzero

/-- A selector with its upper bits 0 is its level bit, extended (R59). -/
theorem zeroExtend_level (hsel : sel.extractLsb' 1 3 = 0) : (sel.extractLsb' 0 1).zeroExtend 4 = sel := by
  decide +revert

/-- An `edge` word is the encoding of what it decodes to (R59). -/
theorem encode_of_decodeEdge_ok (h : decodeEdge sel data = .ok i) : encode i = some (stimulusWord 3 sel data) := by
  unfold decodeEdge at h
  split_ifs at h with hsel
  cases h
  rw [encode, zeroExtend_level hsel]

/-- The encoder gives back the word it is asked about, by the operation field (R56). -/
theorem encode_of_decode_ok {w : Stimulus} (h : decode w = .ok i) : encode i = some w := by
  rw [← stimulusWord_fields w]
  unfold decode at h
  split_ifs at h with h1 h2 h3 h4
  · rw [h1]
    exact encode_of_decodeCfgw_ok h
  · obtain ⟨hsel, hdata⟩ := operands_zero_of_decodeBare_ok h
    cases eq_of_decodeBare_ok h
    rw [h2, hsel, hdata, encode]
  · rw [h3]
    exact encode_of_decodeEdge_ok h
  · obtain ⟨hsel, hdata⟩ := operands_zero_of_decodeBare_ok h
    cases eq_of_decodeBare_ok h
    rw [h4, hsel, hdata, encode]

end

/-- Settles O2: the encoder gives the word back, and the decoder answers only what a host may send. -/
theorem encodeOfDecode : Obligations.EncodeOfDecode := fun _ _ h =>
  have hsend := sendable_of_decode_ok h
  ⟨encode_of_decode_ok h, hsend.isStimulus, hsend.wellFormed⟩

theorem decodeEdge_zeroExtend (level : Bit) (index : Word) :
    decodeEdge (level.zeroExtend 4) index = .ok (.edge index level) := by
  have hupper : (level.zeroExtend 4).extractLsb' 1 3 = 0 := by decide +revert
  have hlevel : (level.zeroExtend 4).extractLsb' 0 1 = level := by decide +revert
  rw [decodeEdge, if_pos hupper, hlevel]

/-- Settles O1: each encoding read back by its operation, its register and its operand. -/
theorem decodeOfEncode : Obligations.DecodeOfEncode := by
  intro i hstimulus hrange
  cases i
  case cfgwPol | cfgwEnd | cfgwTol =>
    simp [encode, decode_stimulusWord, decodeCfgw, checkedValue_of_wellFormed hrange]
  case cfgwZt | cfgwOt | cfgwSr => simp [encode, decode_stimulusWord, decodeCfgw]
  case start | eos => simp [encode, decode_stimulusWord, decodeBare]
  case edge index level => simp [encode, decode_stimulusWord, decodeEdge_zeroExtend]
  case thresh | init | rise | fall | classifyLow | classifyHigh | pushBit | accReset | emitWord => cases hstimulus

/-- Settles O4: the decoder run on the words. -/
theorem wordsOfTheTable : Obligations.WordsOfTheTable := by
  unfold Obligations.WordsOfTheTable
  decide

end Sys2Proof
end

section
/-! PROOFS. The encoding, second part: the reserved words (30_encoding.md R61, R62), by the fields of the word, and the
step's refusal of exactly those. -/

namespace Sys2Proof

section

variable {i : Instr} {sel : BitVec 4} {data : Word}

/-- The decoder rejects, under whatever name. -/
def Rejects (r : Except Reserved Instr) : Prop := ∃ why, r = .error why

@[simp] theorem rejects_error (why : Reserved) : Rejects (.error why) := ⟨why, rfl⟩

@[simp] theorem not_rejects_ok (i : Instr) : ¬ Rejects (.ok i) := fun ⟨_, h⟩ => nomatch h

theorem rejects_ite_iff (c : Prop) [Decidable c] (r r' : Except Reserved Instr) :
    Rejects (if c then r else r') ↔ (c ∧ Rejects r) ∨ (¬ c ∧ Rejects r') := by
  split <;> simp [*]

theorem rejects_checkedValue_iff : Rejects (checkedValue i) ↔ i.wellFormed = false := by
  simp [checkedValue, rejects_ite_iff]

/-- A selector compared with a register number, as numbers. -/
theorem sel_eq_iff (k : BitVec 4) : sel = k ↔ sel.toNat = k.toNat := BitVec.toNat_inj.symm

/-- The reserved registers and the reserved values of a `cfgw` word (R61, R62). -/
theorem rejects_decodeCfgw_iff :
    Rejects (decodeCfgw sel data) ↔
      6 ≤ sel.toNat ∨ (sel.toNat ≤ 1 ∧ 1 < data.toNat) ∨ (sel.toNat = 4 ∧ 100 < data.toNat) := by
  simp only [decodeCfgw, rejects_ite_iff, rejects_checkedValue_iff, not_rejects_ok, rejects_error, Instr.wellFormed,
    decide_eq_false_iff_not, sel_eq_iff, BitVec.ofNat_eq_ofNat, BitVec.toNat_ofNat, and_true, and_false, false_or]
  rw [tolMax]
  omega

theorem rejects_decodeBare_iff : Rejects (decodeBare i sel data) ↔ sel.toNat ≠ 0 ∨ data.toNat ≠ 0 := by
  simp only [decodeBare, rejects_ite_iff, not_rejects_ok, rejects_error, ← BitVec.toNat_inj, BitVec.ofNat_eq_ofNat,
    BitVec.toNat_ofNat, and_true, and_false, false_or]
  omega

theorem rejects_decodeEdge_iff : Rejects (decodeEdge sel data) ↔ sel.toNat / 2 ≠ 0 := by
  have hsel := sel.isLt
  simp only [decodeEdge, rejects_ite_iff, not_rejects_ok, rejects_error, ← BitVec.toNat_inj, BitVec.ofNat_eq_ofNat,
    BitVec.toNat_ofNat, BitVec.extractLsb'_toNat, Nat.shiftRight_eq_div_pow, and_true, and_false,
    false_or]
  omega

/-- The reserved words, by the three fields as numbers (R61, R62). -/
theorem rejects_decode_iff (w : Stimulus) :
    Rejects (decode w) ↔
      (w.toNat / 2 ^ 68 = 0 ∨ 5 ≤ w.toNat / 2 ^ 68) ∨
      (w.toNat / 2 ^ 68 = 1 ∧ 6 ≤ w.toNat / 2 ^ 64 % 16) ∨
      ((w.toNat / 2 ^ 68 = 2 ∨ w.toNat / 2 ^ 68 = 4) ∧ (w.toNat / 2 ^ 64 % 16 ≠ 0 ∨ w.toNat % 2 ^ 64 ≠ 0)) ∨
      (w.toNat / 2 ^ 68 = 3 ∧ w.toNat / 2 ^ 64 % 16 / 2 ≠ 0) ∨
      (w.toNat / 2 ^ 68 = 1 ∧ w.toNat / 2 ^ 64 % 16 ≤ 1 ∧ 1 < w.toNat % 2 ^ 64) ∨
      (w.toNat / 2 ^ 68 = 1 ∧ w.toNat / 2 ^ 64 % 16 = 4 ∧ 100 < w.toNat % 2 ^ 64) := by
  rw [← opField_toNat, ← selField_toNat, ← dataField_toNat]
  simp only [decode, rejects_ite_iff, rejects_decodeCfgw_iff, rejects_decodeBare_iff, rejects_decodeEdge_iff,
    rejects_error, sel_eq_iff (sel := opField w), BitVec.ofNat_eq_ofNat, BitVec.toNat_ofNat, and_true]
  omega

end

end Sys2Proof

namespace Sys2Proof.Machine

/-- A refusal of a reserved word or value. -/
def RefusesReserved (r : Result) : Prop := ∃ why, r = .refused (.reserved why)

section

variable {s : State}

theorem not_refusesReserved_next (t : State) : ¬ RefusesReserved (.next t) := fun ⟨_, h⟩ => nomatch h

theorem not_refusesReserved_sampleOrder : ¬ RefusesReserved (.refused .sampleOrder) := fun ⟨_, h⟩ => nomatch h

theorem fall_not_refusesReserved (s : State) (now : Word) : ¬ RefusesReserved (s.fall now) := by
  rcases fall_cases s now with ⟨_, h⟩ | ⟨_, h⟩ <;> rw [h]
  · exact not_refusesReserved_next _
  · exact not_refusesReserved_sampleOrder

theorem rise_not_refusesReserved (s : State) (now : Word) : ¬ RefusesReserved (s.rise Config.normative now) := by
  rcases rise_cases s now with ⟨_, h⟩ | ⟨_, h⟩ <;> rw [h]
  · obtain ⟨t, h, _⟩ := classifyLow_completes (s.recordRise now (now - s.falling)) now
    rw [h]
    exact not_refusesReserved_next t
  · exact not_refusesReserved_sampleOrder

/-- An `edge` is refused for its order only (R108). -/
theorem edge_not_refusesReserved (s : State) (index : Word) (level : Bit) :
    ¬ RefusesReserved (s.edge Config.normative index level) := by
  rcases edge_cases s index level with ⟨_, h⟩ | ⟨_, _, h⟩ | ⟨_, _, h⟩ | ⟨_, _, _, h⟩ | ⟨_, _, _, _, h⟩ |
    ⟨_, _, _, _, h⟩ <;> rw [h]
  · exact not_refusesReserved_next _
  · exact not_refusesReserved_next _
  · exact not_refusesReserved_next _
  · exact not_refusesReserved_sampleOrder
  · exact fall_not_refusesReserved s index
  · exact rise_not_refusesReserved s index

theorem State.CompletesTo.not_refusesReserved {r : Result} (h : s.CompletesTo r) : ¬ RefusesReserved r := by
  obtain ⟨t, rfl, _⟩ := h
  exact not_refusesReserved_next t

/-- A stimulus that decodes is not refused as reserved, in any state (R62, R63). -/
theorem exec_not_refusesReserved {i : Instr} (hsend : i.Sendable) : ¬ RefusesReserved (exec i s) := by
  obtain ⟨hstimulus, hrange⟩ := hsend
  cases i
  case cfgwPol | cfgwEnd | cfgwZt | cfgwOt | cfgwTol | cfgwSr =>
    refine State.CompletesTo.not_refusesReserved (s := s) ?_
    exact configure_completes hrange rfl
  case start => exact (start_completes s).not_refusesReserved
  case edge index level => exact edge_not_refusesReserved s index level
  case eos => exact (endRun_completes s).not_refusesReserved
  case thresh | init | rise | fall | classifyLow | classifyHigh | pushBit | accReset | emitWord => cases hstimulus

/-- The step refuses as reserved exactly the words the decoder rejects. -/
theorem step_refusesReserved_iff {w : Stimulus} {rest : List Input} (hin : s.inbox = .stimulus w :: rest) :
    RefusesReserved (step s) ↔ Rejects (decode w) := by
  cases hdec : decode w with
  | ok i =>
    rw [step_of_fetch_instr (fetch_of_decode_ok hin hdec)]
    exact iff_of_false (exec_not_refusesReserved (sendable_of_decode_ok hdec)) (not_rejects_ok i)
  | error why =>
    have hstep : step s = .refused (.reserved why) := by simp [step, fetch, hin, hdec]
    exact iff_of_true ⟨why, hstep⟩ (rejects_error why)

end

/-- Settles O3: the step refuses what the decoder rejects, which R61 and R62 list. -/
theorem reservedWordsRefused : Obligations.ReservedWordsRefused :=
  fun _ w _ hin => (step_refusesReserved_iff hin).trans (rejects_decode_iff w)

end Sys2Proof.Machine
end

section
/-! PROOFS. Hardware reset (70_reset_and_hazards.md R180 to R182), and the two stimuli that prepare a run, `cfgw` (R80)
and `start` with THRESH (R81 to R85), with ConfigurationError and the way out of it (60_exceptions.md R161 to R164). -/

namespace Sys2Proof.Machine

section

variable {s : State}

/-- A reset is consumed alone, whatever the state (R180). -/
theorem step_of_inbox_reset {rest : List Input} (hin : s.inbox = .reset :: rest) :
    step s = .next (State.reset.withInbox rest) := by
  rcases step_cases s with ⟨h, _⟩ | ⟨_, h, hstep⟩ | ⟨_, _, _, h, _⟩ | ⟨_, _, _, h, _⟩ <;> rw [hin] at h <;> cases h
  exact hstep

theorem configure_of_betweenRuns {written : State} {inRange : Bool} (hrange : inRange = true)
    (hphase : s.phase.betweenRuns = true) : s.configure inRange written = .next written := by
  rw [State.configure, if_pos hrange, if_pos hphase]

theorem configure_of_out_of_range {written : State} {inRange : Bool} (hrange : inRange = false) :
    s.configure inRange written = .refused (.reserved .value) := by
  rw [State.configure, hrange]
  rfl

end

theorem tolValue_eq_ofNat (v : Word) : tolValue v = BitVec.ofNat 7 v.toNat := rfl

/-- Settles O7: the step takes the reset, and the reset state is the one listed. -/
theorem hardwareResetResult : Obligations.HardwareReset := fun _ _ hin => step_of_inbox_reset hin

/-- Settles O8: the fields of the reset state. -/
theorem resetValues : Obligations.ResetValues := by
  unfold Obligations.ResetValues
  decide

/-- Settles O23: between runs a `cfgw` with its value in range is written. -/
theorem cfgwWritesItsRegister : Obligations.CfgwWritesItsRegister := by
  intro s v hphase
  have hbetween := betweenRuns_iff.mpr hphase
  exact ⟨fun hv => configure_of_betweenRuns (decide_eq_true hv) hbetween,
    fun hv => configure_of_betweenRuns (decide_eq_true hv) hbetween,
    configure_of_betweenRuns rfl hbetween,
    configure_of_betweenRuns rfl hbetween,
    fun hv => configure_of_betweenRuns (decide_eq_true hv) hbetween,
    configure_of_betweenRuns rfl hbetween⟩

/-- Settles O24: the range is checked before the phase. -/
theorem cfgwRefusesReservedValues : Obligations.CfgwRefusesReservedValues := fun _ _ =>
  ⟨fun hv => configure_of_out_of_range (decide_eq_false (Nat.not_le.mpr hv)),
    fun hv => configure_of_out_of_range (decide_eq_false (Nat.not_le.mpr hv)),
    fun hv => configure_of_out_of_range (decide_eq_false (Nat.not_le.mpr hv))⟩

/-- Rounding down (R93): the integer division of the model is the floor of the rational quotient. -/
theorem floor_div_hundred_million (n : Nat) : ⌊(n : ℚ) / 100000000⌋ = ((n / 100000000 : Nat) : Int) := by
  exact_mod_cast Rat.floor_natCast_div_natCast n 100000000

/-- `ZS` as the model computes it is R83's floor. -/
theorem zeroSamples_eq_rule (sr zt : Word) (tol : BitVec 7) :
    zeroSamples sr.toNat zt.toNat tol.toNat = ruleZeroSamples sr zt tol := by
  rw [ruleZeroSamples, floor_div_hundred_million]
  by_cases hzt : zt = 0
  · subst hzt
    rfl
  · rw [if_neg hzt, zeroSamples_of_ne_zero (mt (BitVec.eq_of_toNat_eq (y := 0)) hzt), mul_assoc]

/-- `OS` as the model computes it is R84's floor, for a legal tolerance. -/
theorem oneSamples_eq_rule (sr ot : Word) {tol : BitVec 7} (htol : tol.toNat ≤ 100) :
    oneSamples sr.toNat ot.toNat tol.toNat = ruleOneSamples sr ot tol := by
  rw [ruleOneSamples, floor_div_hundred_million]
  by_cases hot : ot = 0
  · subst hot
    rfl
  · rw [if_neg hot, oneSamples_of_ne_zero (mt (BitVec.eq_of_toNat_eq (y := 0)) hot) htol, mul_assoc]

/-- Settles O28: each threshold by its rule. -/
theorem threshComputesFloors : Obligations.ThreshComputesFloors := by
  intro s htol
  rw [exec_thresh, zeroSamples_eq_rule, oneSamples_eq_rule _ _ htol]

section

variable {s : State}

/-- A `start` between runs with a time base arms the core (R81, R164). -/
theorem exec_start_of_sr_ne_zero (hphase : s.phase.betweenRuns = true) (hsr : s.sr ≠ 0) :
    exec .start s = .next (State.arm
      { s.clearRun with
        zs := zeroSamples s.sr.toNat s.zt.toNat s.tol.toNat
        os := oneSamples s.sr.toNat s.ot.toNat s.tol.toNat }) := by
  rcases start_cases s with ⟨h, _⟩ | ⟨_, h, _⟩ | ⟨_, _, h⟩
  · simp [hphase] at h
  · exact absurd h hsr
  · exact h

/-- A `start` between runs without a time base raises ConfigurationError (R161, R162). -/
theorem exec_start_of_sr_eq_zero (hphase : s.phase.betweenRuns = true) (hsr : s.sr = 0) :
    exec .start s = .next s.clearRun.raiseConfigurationError := by
  rcases start_cases s with ⟨h, _⟩ | ⟨_, _, h⟩ | ⟨_, h, _⟩
  · simp [hphase] at h
  · exact h
  · exact absurd hsr h

end

/-- Settles O25: `start` arms with the thresholds of the rules. -/
theorem startArms : Obligations.StartArms := by
  intro s hphase hsr htol
  rw [exec_start_of_sr_ne_zero (betweenRuns_iff.mpr hphase) hsr, zeroSamples_eq_rule, oneSamples_eq_rule _ _ htol]
  rfl

/-- Settles O26: `start` raises ConfigurationError on the cleared run state. -/
theorem startWithoutTimeBase : Obligations.StartWithoutTimeBase :=
  fun _ hphase hsr => exec_start_of_sr_eq_zero (betweenRuns_iff.mpr hphase) hsr

end Sys2Proof.Machine
end

section
/-! PROOFS. What a report and an `eos` do outside RUNNING (41_edge_tracker.md R100, R102, R111, R112), and the way out
of ERROR (60_exceptions.md R163, R164). -/

namespace Sys2Proof.Machine

section

variable {s : State}

/-- In ARMED an `edge` is INIT (R100, R102). -/
theorem exec_edge_of_armed (hphase : s.phase = .armed) (index : Word) (level : Bit) :
    exec (.edge index level) s = .next (s.initRun index (level ^^^ s.pol)) := by
  rw [exec_edge, State.edge, hphase]
  rfl

/-- Between runs an `edge` is discarded (R111). -/
theorem exec_edge_of_betweenRuns (hphase : s.phase.betweenRuns = true) (index : Word) (level : Bit) :
    exec (.edge index level) s = .next s := by
  rw [exec_edge, State.edge]
  rcases betweenRuns_iff.mp hphase with h | h | h <;> rw [h] <;> rfl

/-- Between runs an `eos` is discarded (R112). -/
theorem exec_eos_of_betweenRuns (hphase : s.phase.betweenRuns = true) : exec .eos s = .next s := by
  rw [exec_eos, State.endRun]
  rcases betweenRuns_iff.mp hphase with h | h | h <;> rw [h] <;> rfl

/-- An `eos` ends a run, also one that has seen no report (R112). -/
theorem exec_eos_of_run (hphase : s.phase.betweenRuns = false) : exec .eos s = .next { s with phase := .stopped } := by
  rw [exec_eos, State.endRun]
  rcases not_betweenRuns_iff.mp hphase with h | h <;> rw [h]

end

/-- Settles O33: the report is INIT of its corrected level. -/
theorem firstReportInitialises : Obligations.FirstReportInitialises :=
  fun _ index level hphase => exec_edge_of_armed hphase index level

/-- Settles O34: INIT's writes are those of `State.initRun`. -/
theorem initResult : Obligations.InitResult := fun s now lvl => exec_init s now lvl

/-- Settles O43: in a run `eos` stops it, between runs it is discarded. -/
theorem eosStops : Obligations.EosStops := fun _ =>
  ⟨fun hphase => exec_eos_of_run (not_betweenRuns_iff.mpr hphase),
    fun hphase => exec_eos_of_betweenRuns (betweenRuns_iff.mpr hphase)⟩

/-- Settles O27: ERROR is a phase between runs, and the `start` after the write has a time base. -/
theorem wayOutOfError : Obligations.WayOutOfError := by
  intro s hertz hphase hhertz
  have hbetween : s.phase.betweenRuns = true := betweenRuns_iff.mpr (.inr (.inr hphase))
  exact ⟨exec_edge_of_betweenRuns hbetween, exec_eos_of_betweenRuns hbetween, { s with sr := hertz }, _,
    configure_of_betweenRuns rfl hbetween, rfl, exec_start_of_sr_ne_zero (s := { s with sr := hertz }) hbetween hhertz,
    rfl, rfl, rfl, rfl⟩

end Sys2Proof.Machine
end

section
/-! PROOFS. FALL with CLASSIFY_HIGH and ACC_RESET (41_edge_tracker.md R104, 42_bit_classifier.md R125 to R129,
43_word_accumulator.md R145), RISE (R105), and how a report takes them (R100, R106). -/

namespace Sys2Proof.Machine

/-- Settles O52: ACC_RESET's writes are those of `State.accReset`. -/
theorem accResetResult : Obligations.AccResetResult := fun s now => exec_accReset s now

/-- Settles O38: the leader detector's two tests, R125's before R126's. -/
theorem classifyHighResult : Obligations.ClassifyHighResult := by
  intro s now
  rw [exec_classifyHigh, State.classifyHigh, decidePulse]
  split_ifs
  · rw [State.emitWord, State.emit, State.emit, List.append_assoc]
    rfl
  · rfl
  · rfl

section

variable {s : State} {now : Word}

/-- FALL on an index not below `rising` records the edge and classifies the pulse (R104). -/
theorem exec_fall_of_le (hrising : s.rising ≤ now) :
    exec (.fall now) s = exec (.classifyHigh now) (s.recordFall now (now - s.rising)) := by
  rw [exec_fall, exec_classifyHigh]
  exact fall_eq_next_iff.mpr ⟨hrising, rfl⟩

/-- RISE on an index not below `falling` records the edge and classifies the gap (R105). -/
theorem exec_rise_of_le (hfalling : s.falling ≤ now) :
    exec (.rise now) s = exec (.classifyLow now) (s.recordRise now (now - s.falling)) := by
  rw [exec_rise, exec_classifyLow, State.rise, width, if_pos hfalling]

end

/-- Settles O37: CLASSIFY_HIGH's outcomes on the recorded edge, whose width is the exact difference. -/
theorem fallResult : Obligations.FallResult := by
  intro s now hrising
  rw [exec_fall_of_le hrising, classifyHighResult, State.recordFall, BitVec.toNat_sub_of_le hrising]

/-- Settles O39: CLASSIFY_HIGH does not write the rising side. -/
theorem fallRecordsThenClassifies : Obligations.FallRecordsThenClassifies := by
  intro s now hrising
  refine ⟨_, exec_classifyHigh _ now, exec_fall_of_le hrising, ?_⟩
  rcases classifyHigh_cases (s.recordFall now (now - s.rising)) now with ⟨_, h⟩ | ⟨_, h⟩ | ⟨_, h⟩
  · exact h ▸ ⟨rfl, rfl, rfl⟩
  · exact h ▸ ⟨rfl, rfl, rfl⟩
  · exact h ▸ ⟨rfl, rfl, rfl⟩

end Sys2Proof.Machine
end

section
/-! PROOFS. What CLASSIFY_LOW, CLASSIFY_HIGH and PUSH_BIT leave alone: all but the accumulators and `OUT`. RISE by its
classifier, and how a report in RUNNING takes FALL and RISE (41_edge_tracker.md R100, R105, R106). -/

namespace Sys2Proof.Machine

/-- `t` is `s` but for what `erase` clears. -/
def State.SameBut (erase : State → State) (s t : State) : Prop := erase t = erase s

/-- A field that `erase` leaves alone is the same. -/
theorem State.SameBut.field {erase : State → State} {s t : State} (h : s.SameBut erase t) {α : Type} (field : State → α)
    (hfield : ∀ u : State, field (erase u) = field u := by intro; rfl) : field t = field s :=
  (hfield t).symm.trans ((congrArg field h).trans (hfield s))

/-- The state with the accumulators and the event record cleared. -/
def State.eraseAccumulator (s : State) : State :=
  { s with nibValue := 0, nibCount := 0, nibStart := 0, wordValue := 0, wordCount := 0, wordStart := 0, out := [] }

/-- `t` is `s` but for the accumulators and the event record. -/
abbrev State.SameButAccumulator (s t : State) : Prop := s.SameBut State.eraseAccumulator t

section

variable {s t : State}

theorem sameButAccumulator_pushed (s : State) (b : Bit) (now : Word) : s.SameButAccumulator (s.pushed b now) := by
  rcases pushed_cases s b now with ⟨_, h⟩ | ⟨_, h⟩ <;> rw [h] <;> rfl

/-- PUSH_BIT leaves the start of the nibble, or moves it to the edge (R144). -/
theorem pushed_nibStart_cases (s : State) (b : Bit) (now : Word) :
    (s.pushed b now).nibStart = s.nibStart ∨ (s.pushed b now).nibStart = now := by
  rcases pushed_cases s b now with ⟨_, h⟩ | ⟨_, h⟩ <;> simp [h]

theorem pushed_wordStart (s : State) (b : Bit) (now : Word) : (s.pushed b now).wordStart = s.wordStart := by
  rcases pushed_cases s b now with ⟨_, h⟩ | ⟨_, h⟩ <;> simp [h]

theorem sameButAccumulator_classifyHigh (s : State) (now : Word) : s.SameButAccumulator (s.classifyHigh now) := by
  rcases classifyHigh_cases s now with ⟨_, h⟩ | ⟨_, h⟩ | ⟨_, h⟩ <;> rw [h] <;> rfl

/-- CLASSIFY_LOW decided nothing, or it emitted and pushed the bit it decided (R120, R124). -/
theorem classifyLow_next_cases {now : Word} (h : s.classifyLow Config.normative now = .next t) :
    t = s ∨ ∃ b, t = (s.emit .bit s.lastrising s.rising b.toNat).pushed b now := by
  rcases classifyLow_cases s now with ⟨_, h2⟩ | ⟨b, _, h2⟩ <;> rw [h2] at h <;> cases h
  · exact .inl rfl
  · exact .inr ⟨b, rfl⟩

theorem sameButAccumulator_classifyLow {now : Word} (h : s.classifyLow Config.normative now = .next t) :
    s.SameButAccumulator t := by
  rcases classifyLow_next_cases h with rfl | ⟨b, rfl⟩
  · rfl
  · exact sameButAccumulator_pushed _ b now

/-- CLASSIFY_LOW on the normative core answers a next state. -/
theorem exists_classifyLow_next (s : State) (now : Word) : ∃ t, s.classifyLow Config.normative now = .next t :=
  have ⟨t, ht, _⟩ := classifyLow_completes s now
  ⟨t, ht⟩

end

/-- Settles O40: CLASSIFY_LOW on the recorded edge, which does not write the falling side. -/
theorem riseResult : Obligations.RiseResult := by
  intro s now hfalling
  obtain ⟨t, ht⟩ := exists_classifyLow_next (s.recordRise now (now - s.falling)) now
  have hsame := sameButAccumulator_classifyLow ht
  exact ⟨t, ht, (exec_rise_of_le hfalling).trans ht, hsame.field State.falling, hsame.field State.lastfalling,
    hsame.field State.highwidth⟩

/-- What CLASSIFY_LOW can do to the word: at most one bit more, and without one everything stays (R120, R124, R143). -/
theorem classifyLow_word {s t : State} {now : Word} (h : s.classifyLow Config.normative now = .next t) :
    t.wordStart = s.wordStart ∧ t.wordCount ≤ s.wordCount + 1 ∧ (t.wordCount = s.wordCount → t = s) := by
  rcases classifyLow_next_cases h with rfl | ⟨b, rfl⟩
  · exact ⟨rfl, Nat.le_succ _, fun _ => rfl⟩
  · rcases pushed_cases (s.emit .bit s.lastrising s.rising b.toNat) b now with ⟨_, hpushed⟩ | ⟨_, hpushed⟩ <;>
      simp [hpushed]

/-- Settles O42: the frame of CLASSIFY_LOW on the recorded edge. -/
theorem riseFrame : Obligations.RiseFrame := by
  intro s now hfalling
  obtain ⟨t, ht⟩ := exists_classifyLow_next (s.recordRise now (now - s.falling)) now
  have hsame := sameButAccumulator_classifyLow ht
  obtain ⟨hstart, hcount, hnone⟩ := classifyLow_word ht
  refine ⟨t, (exec_rise_of_le hfalling).trans ht, hsame.field State.pol, hsame.field State.endian,
    hsame.field State.zt, hsame.field State.ot, hsame.field State.tol, hsame.field State.sr, hsame.field State.zs,
    hsame.field State.os, hsame.field State.phase, hsame.field State.err, hsame.field State.oldpin,
    hsame.field State.lastpos, hsame.field State.falling, hsame.field State.lastfalling, hsame.field State.rising,
    hsame.field State.lastrising, hsame.field State.highwidth, ?_, hstart, hsame.field State.inbox, hcount,
    fun heq => ?_⟩
  · rw [hsame.field State.lowwidth]
    exact BitVec.toNat_sub_of_le hfalling
  · rw [hnone heq]
    exact ⟨rfl, rfl, rfl, rfl, rfl⟩

section

variable {s : State} {lvl : Bit} {index : Word}

/-- A changed level at or after `lastpos` is FALL where the line was active (R100, R106). -/
theorem report_of_falling (p : Config.Params) (hold : s.oldpin = 1) (hlevel : lvl = 0) (hindex : s.lastpos ≤ index) :
    s.report p index lvl = s.fall index := by
  simp only [State.report, direction_falling_iff.mpr ⟨hold, hlevel⟩, if_neg (BitVec.not_lt.mpr hindex)]

/-- A changed level at or after `lastpos` is RISE where the line was inactive (R100, R106). -/
theorem report_of_rising (p : Config.Params) (hold : s.oldpin = 0) (hlevel : lvl = 1) (hindex : s.lastpos ≤ index) :
    s.report p index lvl = s.rise p index := by
  simp only [State.report, direction_rising_iff.mpr ⟨hold, hlevel⟩, if_neg (BitVec.not_lt.mpr hindex)]

end

/-- Settles O41: the report takes the edge, which the edge invariant lets complete. -/
theorem changedLevelTakesTheEdge : Obligations.ChangedLevelTakesTheEdge := by
  intro s index level hphase hedges hindex
  constructor
  · intro hold hlevel
    obtain ⟨t, ht, _⟩ := fall_completes (BitVec.le_trans (rising_le_lastpos hedges hold) hindex)
    exact ⟨t, ht, (exec_edge_of_running hphase index level).trans ((report_of_falling _ hold hlevel hindex).trans ht)⟩
  · intro hold hlevel
    obtain ⟨t, ht, _⟩ := rise_completes (BitVec.le_trans (falling_le_lastpos hedges hold) hindex)
    exact ⟨t, ht, (exec_edge_of_running hphase index level).trans ((report_of_rising _ hold hlevel hindex).trans ht)⟩

end Sys2Proof.Machine
end

section
/-! PROOFS. What a step and what an `edge` can do, told by their next states (20_memory.md R48, 41_edge_tracker.md
R100). -/

namespace Sys2Proof.Machine

/-- Everything a step that answers a next state can have done. -/
theorem step_next_cases {s t : State} (h : step s = .next t) :
    (s.inbox = [] ∧ t = s) ∨
    (∃ rest, s.inbox = .reset :: rest ∧ t = State.reset.withInbox rest) ∨
    ∃ w rest i, s.inbox = .stimulus w :: rest ∧ decode w = .ok i ∧ exec i (s.withInbox rest) = .next t := by
  rcases step_cases s with ⟨hin, h2⟩ | ⟨rest, hin, h2⟩ | ⟨w, rest, i, hin, hdec, h2⟩ | ⟨_, _, _, _, _, h2⟩ <;>
    rw [h2] at h
  · cases h
    exact .inl ⟨hin, rfl⟩
  · cases h
    exact .inr (.inl ⟨rest, hin, rfl⟩)
  · exact .inr (.inr ⟨w, rest, i, hin, hdec, h⟩)
  · cases h

/-- Everything an `edge` that answers a next state can have done: INIT, nothing, FALL or RISE. -/
theorem exec_edge_next_cases {s t : State} {index : Word} {level : Bit} (h : exec (.edge index level) s = .next t) :
    (s.phase = .armed ∧ t = s.initRun index (level ^^^ s.pol)) ∨
    (s.phase ≠ .armed ∧ t = s) ∨
    (s.phase = .running ∧ s.oldpin = 1 ∧ s.lastpos ≤ index ∧ s.rising ≤ index ∧
      t = (s.recordFall index (index - s.rising)).classifyHigh index) ∨
    (s.phase = .running ∧ s.oldpin = 0 ∧ s.lastpos ≤ index ∧ s.falling ≤ index ∧
      (s.recordRise index (index - s.falling)).classifyLow Config.normative index = .next t) := by
  rw [exec_edge] at h
  rcases edge_cases s index level with ⟨hp, h2⟩ | ⟨hp, _, h2⟩ | ⟨hp, _, h2⟩ | ⟨_, _, _, h2⟩ | ⟨hp, ho, _, hi, h2⟩ |
    ⟨hp, ho, _, hi, h2⟩ <;> rw [h2] at h
  · cases h
    exact .inl ⟨hp, rfl⟩
  · cases h
    exact .inr (.inl ⟨hp, rfl⟩)
  · cases h
    exact .inr (.inl ⟨by simp [hp], rfl⟩)
  · cases h
  · obtain ⟨hrising, rfl⟩ := fall_eq_next_iff.mp h
    exact .inr (.inr (.inl ⟨hp, ho, hi, hrising, rfl⟩))
  · rcases rise_cases s index with ⟨hfalling, h3⟩ | ⟨_, h3⟩ <;> rw [h3] at h
    · exact .inr (.inr (.inr ⟨hp, ho, hi, hfalling, h⟩))
    · cases h

end Sys2Proof.Machine
end

section
/-! PROOFS. Frames: what a stimulus leaves alone. -/

namespace Sys2Proof

/-- One of the six stimuli of the form `cfgw` (40_thresholds_and_configuration.md R80). -/
def Instr.isCfgw : Instr → Bool
  | .cfgwPol _ | .cfgwEnd _ | .cfgwZt _ | .cfgwOt _ | .cfgwTol _ | .cfgwSr _ => true
  | _ => false

end Sys2Proof

namespace Sys2Proof.Machine

/-- The state with the configuration, the thresholds and the status cleared. -/
def State.eraseControl (s : State) : State :=
  { s with pol := 0, endian := 0, zt := 0, ot := 0, tol := 0, sr := 0, zs := 0, os := 0, phase := .idle, err := 0 }

/-- The state with the run state, the event record and `PHASE` cleared. -/
def State.eraseRun (s : State) : State := { s.clearRun with phase := .idle }

section

variable {s t : State}

theorem State.SameBut.trans {erase : State → State} {u : State} (h : s.SameBut erase t) (h' : t.SameBut erase u) :
    s.SameBut erase u := Eq.trans h' h

theorem State.SameButAccumulator.sameBut_eraseRun (h : s.SameButAccumulator t) : s.SameBut State.eraseRun t :=
  h.field State.eraseRun

theorem tolValue_le {v : Word} (hv : (Instr.cfgwTol v).wellFormed = true) : (tolValue v).toNat ≤ 100 := by
  rw [tolValue_eq_ofNat, BitVec.toNat_ofNat]
  exact (Nat.mod_le _ _).trans (of_decide_eq_true hv)

/-- A `cfgw` that answers a next state has its value in range where it wrote it (R62, R80). -/
theorem configure_next_inRange_cases {inRange : Bool} {written : State} (h : s.configure inRange written = .next t) :
    (s.phase.betweenRuns = false ∧ t = s) ∨ (s.phase.betweenRuns = true ∧ inRange = true ∧ t = written) := by
  rcases configure_cases s inRange written with ⟨hrange, hphase, h2⟩ | ⟨_, hphase, h2⟩ | ⟨_, h2⟩ <;> rw [h2] at h <;>
    cases h
  · exact .inr ⟨hphase, hrange, rfl⟩
  · exact .inl ⟨hphase, rfl⟩

/-- `t` is `s` with the configuration written, `TOL` in its range (10_state.md R12, R17). -/
def State.Reconfigured (s t : State) : Prop :=
  ∃ pol endian zt ot tol sr, (s.tol.toNat ≤ 100 → tol.toNat ≤ 100) ∧ t = { s with pol, endian, zt, ot, tol, sr }

/-- A `cfgw` writes the configuration between runs; in a run it is discarded (R80). -/
theorem exec_cfgw_next_cases {i : Instr} (hcfgw : i.isCfgw = true) (h : exec i s = .next t) :
    (s.phase.betweenRuns = false ∧ t = s) ∨ (s.phase.betweenRuns = true ∧ s.Reconfigured t) := by
  cases i
  case cfgwPol v =>
    exact (configure_next_inRange_cases h).imp_right fun ⟨hphase, _, ht⟩ => ⟨hphase, bitValue v, _, _, _, _, _, id, ht⟩
  case cfgwEnd v =>
    exact (configure_next_inRange_cases h).imp_right fun ⟨hphase, _, ht⟩ => ⟨hphase, _, bitValue v, _, _, _, _, id, ht⟩
  case cfgwZt v =>
    rw [exec_cfgwZt] at h
    exact (configure_next_inRange_cases h).imp_right fun ⟨hphase, _, ht⟩ => ⟨hphase, _, _, v, _, _, _, id, ht⟩
  case cfgwOt v =>
    rw [exec_cfgwOt] at h
    exact (configure_next_inRange_cases h).imp_right fun ⟨hphase, _, ht⟩ => ⟨hphase, _, _, _, v, _, _, id, ht⟩
  case cfgwTol v =>
    exact (configure_next_inRange_cases h).imp_right fun ⟨hphase, hrange, ht⟩ =>
      ⟨hphase, _, _, _, _, tolValue v, _, fun _ => tolValue_le hrange, ht⟩
  case cfgwSr v =>
    rw [exec_cfgwSr] at h
    exact (configure_next_inRange_cases h).imp_right fun ⟨hphase, _, ht⟩ => ⟨hphase, _, _, _, _, _, v, id, ht⟩
  all_goals cases hcfgw

/-- An `eos` writes `PHASE` or nothing (R112). -/
theorem exec_eos_next_cases (h : exec .eos s = .next t) :
    (s.phase = .armed ∨ s.phase = .running) ∧ t = { s with phase := .stopped } ∨
    s.phase ≠ .armed ∧ s.phase ≠ .running ∧ t = s := by
  rw [exec_eos] at h
  rcases endRun_cases s with ⟨hphase, h2⟩ | ⟨harmed, hrunning, h2⟩ <;> rw [h2] at h <;> cases h
  · exact .inl ⟨hphase, rfl⟩
  · exact .inr ⟨harmed, hrunning, rfl⟩

/-- An `edge` writes the run state and `PHASE` only (R52, R100). -/
theorem sameBut_edge {index : Word} {level : Bit} (h : exec (.edge index level) s = .next t) :
    s.SameBut State.eraseRun t := by
  rcases exec_edge_next_cases h with ⟨_, rfl⟩ | ⟨_, rfl⟩ | ⟨_, _, _, _, rfl⟩ | ⟨_, _, _, _, hlow⟩
  · rfl
  · rfl
  · exact .trans (t := s.recordFall index (index - s.rising)) rfl
      (sameButAccumulator_classifyHigh _ index).sameBut_eraseRun
  · exact .trans (t := s.recordRise index (index - s.falling)) rfl
      (sameButAccumulator_classifyLow hlow).sameBut_eraseRun

theorem sameBut_eos {erase : State → State} (hphase : ∀ u : State, erase { u with phase := .stopped } = erase u)
    (h : exec .eos s = .next t) : s.SameBut erase t := by
  rcases exec_eos_next_cases h with ⟨_, rfl⟩ | ⟨_, _, rfl⟩
  · exact hphase s
  · rfl

end

/-- Settles O18: an `edge` and an `eos` write the run state and `PHASE`, a `cfgw` its configuration register. -/
theorem onlyStartWritesThresholds : Obligations.OnlyStartWritesThresholds := by
  intro i s t hstimulus hstart h
  cases i
  case cfgwPol | cfgwEnd | cfgwZt | cfgwOt | cfgwTol | cfgwSr =>
    rcases exec_cfgw_next_cases rfl h with ⟨_, rfl⟩ | ⟨_, _, _, _, _, _, _, _, rfl⟩
    · exact ⟨rfl, rfl, rfl⟩
    · exact ⟨rfl, rfl, rfl⟩
  case start => exact absurd rfl hstart
  case edge =>
    have hsame := sameBut_edge h
    exact ⟨hsame.field State.zs, hsame.field State.os, hsame.field State.err⟩
  case eos =>
    have hsame : s.SameBut State.eraseRun t := sameBut_eos (fun _ => rfl) h
    exact ⟨hsame.field State.zs, hsame.field State.os, hsame.field State.err⟩
  case thresh | init | rise | fall | classifyLow | classifyHigh | pushBit | accReset | emitWord => cases hstimulus

section

variable {s t : State}

/-- In a run a stimulus changes nothing, ends the run, or is a report (R80, R81, R112). -/
theorem exec_next_of_run {i : Instr} (hsend : i.Sendable) (hrun : s.phase.betweenRuns = false)
    (h : exec i s = .next t) :
    t = s ∨ t = { s with phase := .stopped } ∨
    ∃ (index : Word) (level : Bit), exec (.edge index level) s = .next t := by
  have hstimulus := hsend.isStimulus
  cases i
  case cfgwPol | cfgwEnd | cfgwZt | cfgwOt | cfgwTol | cfgwSr =>
    rcases exec_cfgw_next_cases rfl h with ⟨_, rfl⟩ | ⟨hbetween, _⟩
    · exact .inl rfl
    · simp [hrun] at hbetween
  case start =>
    rcases start_cases s with ⟨_, h2⟩ | ⟨hbetween, _⟩ | ⟨hbetween, _⟩
    · rw [h2] at h
      cases h
      exact .inl rfl
    · simp [hrun] at hbetween
    · simp [hrun] at hbetween
  case edge index level => exact .inr (.inr ⟨index, level, h⟩)
  case eos =>
    rcases exec_eos_next_cases h with ⟨_, rfl⟩ | ⟨_, _, rfl⟩
    · exact .inr (.inl rfl)
    · exact .inl rfl
  case thresh | init | rise | fall | classifyLow | classifyHigh | pushBit | accReset | emitWord => cases hstimulus

/-- In a run a stimulus writes the run state and `PHASE` only (R12, R19, R52). -/
theorem sameBut_exec_of_run {i : Instr} (hsend : i.Sendable) (hrun : s.phase.betweenRuns = false)
    (h : exec i s = .next t) : s.SameBut State.eraseRun t := by
  rcases exec_next_of_run hsend hrun h with rfl | rfl | ⟨_, _, hedge⟩
  · rfl
  · rfl
  · exact sameBut_edge hedge

end

/-- Settles O17: but for a reset, a step in a run waits or runs a stimulus, which leaves these registers. -/
theorem configurationFixedInARun : Obligations.ConfigurationFixedInARun := by
  intro s t hphase hreset h
  rcases step_next_cases h with ⟨_, rfl⟩ | ⟨rest, hin, _⟩ | ⟨w, rest, i, _, hdec, hexec⟩
  · exact ⟨rfl, rfl, rfl, rfl, rfl, rfl, rfl, rfl, rfl⟩
  · exact absurd hin (hreset rest)
  · have hsame := sameBut_exec_of_run (s := s.withInbox rest) (sendable_of_decode_ok hdec)
      (not_betweenRuns_iff.mpr hphase) hexec
    exact ⟨hsame.field State.pol, hsame.field State.endian, hsame.field State.zt, hsame.field State.ot,
      hsame.field State.tol, hsame.field State.sr, hsame.field State.zs, hsame.field State.os, hsame.field State.err⟩

/-- A stimulus that is no `edge` leaves the run state, or is the `start` that clears it (R80, R81, R112). -/
theorem sameBut_exec_or_cleared {i : Instr} {s t : State} (hstimulus : i.isStimulus = true)
    (hedge : ∀ a b, i ≠ .edge a b) (h : exec i s = .next t) :
    s.SameBut State.eraseControl t ∨ (i = .start ∧ t.out = []) := by
  cases i
  case cfgwPol | cfgwEnd | cfgwZt | cfgwOt | cfgwTol | cfgwSr =>
    rcases exec_cfgw_next_cases rfl h with ⟨_, rfl⟩ | ⟨_, _, _, _, _, _, _, _, rfl⟩
    · exact .inl rfl
    · exact .inl rfl
  case start =>
    rcases start_cases s with ⟨_, h2⟩ | ⟨_, _, h2⟩ | ⟨_, _, h2⟩ <;> rw [h2] at h <;> cases h
    · exact .inl rfl
    · exact .inr ⟨rfl, rfl⟩
    · exact .inr ⟨rfl, rfl⟩
  case edge index level => exact absurd rfl (hedge index level)
  case eos => exact .inl (sameBut_eos (fun _ => rfl) h)
  case thresh | init | rise | fall | classifyLow | classifyHigh | pushBit | accReset | emitWord => cases hstimulus

/-- Settles O21: `OUT` is run state. -/
theorem otherStimuliEmitNothing : Obligations.OtherStimuliEmitNothing := by
  intro i s t hstimulus hedge h
  rcases sameBut_exec_or_cleared hstimulus hedge h with hsame | hcleared
  · exact .inl (hsame.field State.out)
  · exact .inr hcleared

/-- The eight edge-state registers (10_state.md R23 to R26). -/
def State.edgeState (s : State) : Bit × Word × Word × Word × Word × Word × Word × Word :=
  (s.oldpin, s.lastpos, s.falling, s.lastfalling, s.rising, s.lastrising, s.highwidth, s.lowwidth)

/-- The classifiers and the accumulator write the accumulators and `OUT`, the other instructions that are no edge write
the configuration, the thresholds and `PHASE` (R110). -/
theorem edgeState_of_exec {i : Instr} {s t : State} (h : exec i s = .next t) (hstart : i ≠ .start)
    (hedge : ∀ a b, i ≠ .edge a b ∧ i ≠ .init a b ∧ i ≠ .rise a ∧ i ≠ .fall a) : t.edgeState = s.edgeState := by
  have hstimulus (hi : i.isStimulus = true) : t.edgeState = s.edgeState := by
    rcases sameBut_exec_or_cleared hi (fun a b => (hedge a b).1) h with hsame | ⟨hi, _⟩
    · exact hsame.field State.edgeState
    · exact absurd hi hstart
  cases i
  case cfgwPol | cfgwEnd | cfgwZt | cfgwOt | cfgwTol | cfgwSr | start | edge | eos => exact hstimulus rfl
  case init now lvl =>
    obtain ⟨_, hinit, _⟩ := hedge now lvl
    exact absurd rfl hinit
  case rise now =>
    obtain ⟨_, _, hrise, _⟩ := hedge now 0
    exact absurd rfl hrise
  case fall now =>
    obtain ⟨_, _, _, hfall⟩ := hedge now 0
    exact absurd rfl hfall
  case classifyLow => exact (sameButAccumulator_classifyLow h).field State.edgeState
  case classifyHigh now =>
    cases h
    exact (sameButAccumulator_classifyHigh s now).field State.edgeState
  case pushBit b now =>
    cases h
    exact (sameButAccumulator_pushed s b now).field State.edgeState
  case thresh | accReset | emitWord =>
    cases h
    rfl

/-- Settles O19: the registers one by one. -/
theorem edgeStateWriters : Obligations.EdgeStateWriters := by
  intro i s t h ⟨hstart, hedge⟩
  simpa only [State.edgeState, Prod.mk.injEq] using edgeState_of_exec h hstart hedge

end Sys2Proof.Machine
end

section
/-! PROOFS. The accumulators as numbers: every push keeps the counts and the sizes (10_state.md R34 (a), (b)) and the
place of the nibble in the word (43_word_accumulator.md R152). -/

namespace Sys2Proof.Machine

/-- The counts agree and the values fit them (10_state.md R34 (a), (b)). -/
structure State.CountsFit (s : State) : Prop where
  /-- A nibble is four bits. -/
  counts : s.nibCount.toNat = s.wordCount % 4
  /-- The nibble has no more bits than were pushed into it. -/
  nibble : s.nibValue.toNat < 2 ^ s.nibCount.toNat
  /-- The word has no more bits than were pushed into it. -/
  word : s.wordValue < 2 ^ s.wordCount

section

variable {s : State}

/-- A count that does not complete the nibble goes up by one (R143). -/
theorem nibCount_of_ne_three {count : BitVec 2} (hne : count ≠ 3) :
    (count + 1).toNat = count.toNat + 1 ∧ count.toNat < 3 := by
  rcases nibCount_cases count with ⟨_, hsucc, hlt⟩ | ⟨heq, _⟩
  · exact ⟨hsucc, hlt⟩
  · exact absurd heq hne

theorem pushNibble_lt (endian b : Bit) {count : BitVec 2} {value : BitVec 4} (hvalue : value.toNat < 2 ^ count.toNat) :
    (pushNibble endian b count value).toNat < 2 ^ (count.toNat + 1) := by
  rw [pushNibble_eq_ofNat_pushWord, BitVec.toNat_ofNat]
  exact (Nat.mod_le _ _).trans_lt (pushWord_lt endian b hvalue)

/-- PUSH_BIT keeps the counts and the sizes (R140, R144). -/
theorem countsFit_pushed (hfit : s.CountsFit) (b : Bit) (now : Word) : (s.pushed b now).CountsFit := by
  obtain ⟨hcounts, hnibble, hword⟩ := hfit
  have hword' := pushWord_lt s.endian b hword
  rcases pushed_cases s b now with ⟨hne, h⟩ | ⟨heq, h⟩ <;> rw [h]
  · obtain ⟨hsucc, hlt⟩ := nibCount_of_ne_three hne
    refine ⟨?_, ?_, hword'⟩
    · rw [State.shiftIn_nibCount, State.shiftIn_wordCount, hsucc]
      omega
    · rw [State.shiftIn_nibCount, State.shiftIn_nibValue, hsucc]
      exact pushNibble_lt s.endian b hnibble
  · rw [heq] at hcounts
    refine ⟨?_, Nat.one_pos, hword'⟩
    show 0 = (s.wordCount + 1) % 4
    have : s.wordCount % 4 = 3 := hcounts.symm
    omega

/-- Little order: the low bits of the word take the new bit as the nibble does. -/
theorem two_mul_add_mod_two_pow (word c : Nat) (b : Bit) :
    (2 * word + b.toNat) % 2 ^ (c + 1) = 2 * (word % 2 ^ c) + b.toNat := by
  have hb := b.isLt
  rw [pow_succ', Nat.mod_mul]
  have hhalf : (2 * word + b.toNat) / 2 = word := by omega
  rw [hhalf]
  omega

/-- Big order: the high bits of the word take the new bit as the nibble does. -/
theorem add_mul_two_pow_shiftRight {c count : Nat} (hc : c ≤ count) (word b : Nat) :
    (word + b * 2 ^ count) >>> (count + 1 - (c + 1)) = word >>> (count - c) + b * 2 ^ c := by
  rw [Nat.add_sub_add_right, Nat.shiftRight_eq_div_pow, Nat.shiftRight_eq_div_pow]
  conv_lhs => rw [← Nat.add_sub_cancel' hc, pow_add, ← mul_assoc, Nat.add_sub_cancel' hc]
  exact Nat.add_mul_div_right _ _ (Nat.two_pow_pos _)

/-- PUSH_BIT keeps the nibble the last bits of the word (R152). -/
theorem bitOrderInv_pushed (hfit : s.CountsFit) (horder : s.BitOrderInv) (b : Bit) (now : Word) :
    (s.pushed b now).BitOrderInv := by
  have hfit' := countsFit_pushed hfit b now
  obtain ⟨hcounts, hnibble, hword⟩ := hfit
  obtain ⟨hlittle, hbig⟩ := horder
  rcases pushed_cases s b now with ⟨hne, h⟩ | ⟨heq, h⟩ <;> rw [h] at hfit' ⊢
  · obtain ⟨hsucc, _⟩ := nibCount_of_ne_three hne
    simp only [State.BitOrderInv, State.shiftIn_endian, State.shiftIn_nibValue, State.shiftIn_nibCount,
      State.shiftIn_wordValue, State.shiftIn_wordCount, hsucc]
    constructor
    · intro hend
      rw [hend, pushNibble_little b _ _ hnibble, pushWord_little, two_mul_add_mod_two_pow, hlittle hend]
    · intro hend
      rw [hend, pushNibble_big b _ _ hnibble, pushWord_big b _ _ hword, add_mul_two_pow_shiftRight (by omega),
        hbig hend]
  · exact ⟨fun _ => (Nat.mod_one _).symm, fun _ => by
      rw [Nat.shiftRight_eq_div_pow]
      exact (Nat.div_eq_of_lt hfit'.word).symm⟩

end

end Sys2Proof.Machine
end

section
/-! PROOFS. The state invariant (10_state.md R34, 43_word_accumulator.md R152, 60_exceptions.md R163): it holds at
reset, and each update of the state keeps it. -/

namespace Sys2Proof.Machine

section

variable {s t : State}

theorem State.Inv.countsFit (hinv : s.Inv) : s.CountsFit :=
  have ⟨hcounts, hnibble, hword, _⟩ := hinv.accumulator
  ⟨hcounts, hnibble, hword⟩

theorem State.Inv.wordStart_le_nibStart (hinv : s.Inv) : s.wordStart ≤ s.nibStart :=
  have ⟨_, _, _, hstarts⟩ := hinv.accumulator
  hstarts

theorem State.Inv.wordStart_le_lastpos (hinv : s.Inv) : s.wordStart ≤ s.lastpos :=
  BitVec.le_trans hinv.wordStart_le_nibStart hinv.starts

theorem State.Inv.tol_le (hinv : s.Inv) : s.tol.toNat ≤ 100 := hinv.control.1

/-- The input sequence is no part of the invariant. -/
theorem inv_withInbox (hinv : s.Inv) (rest : List Input) : (s.withInbox rest).Inv :=
  ⟨hinv.control, hinv.clear, hinv.accumulator, hinv.bitOrder, hinv.edges, hinv.starts⟩

/-- Outside RUNNING a clear run state has the invariant. -/
theorem inv_of_runClear (hcontrol : t.ControlInv) (hphase : t.phase ≠ .running) (hclear : t.RunClear) : t.Inv := by
  obtain ⟨_, hlast, _, _, _, _, _, _, hnib, hcount, hnibStart, hword, hwordCount, hwordStart, _⟩ := id hclear
  refine ⟨hcontrol, fun _ => hclear, ?_, fun h => absurd h hphase, fun h => absurd h hphase, ?_⟩
  · simp [State.AccumulatorInv, hnib, hcount, hword, hwordCount, hnibStart, hwordStart]
  · simp [hnibStart, hlast]

theorem runClear_clearRun (s : State) : s.clearRun.RunClear := by simp [State.RunClear]

theorem inv_reset : State.reset.Inv :=
  inv_of_runClear (by decide) (by decide) (by decide)

/-- ConfigurationError after the clearing of the run state (R162, R163). -/
theorem inv_raiseConfigurationError (hinv : s.Inv) : s.clearRun.raiseConfigurationError.Inv :=
  inv_of_runClear (by simp [State.ControlInv, hinv.tol_le]) (by simp) (runClear_clearRun s)

/-- The end of a `start` with a time base: the thresholds are in their bounds (R88). -/
theorem inv_arm (hinv : s.Inv) (hsr : s.sr ≠ 0) :
    (State.arm
      { s.clearRun with
        zs := zeroSamples s.sr.toNat s.zt.toNat s.tol.toNat
        os := oneSamples s.sr.toNat s.ot.toNat s.tol.toNat }).Inv := by
  obtain ⟨hzs, hzs', hos, hos'⟩ := thresholdBounds _ _ _ _ s.sr.isLt s.zt.isLt s.ot.isLt hinv.tol_le
  refine inv_of_runClear ?_ (by simp) (runClear_clearRun s)
  exact ⟨hinv.tol_le, hzs, hzs', hos, hos', by simp, by simp, fun _ => ⟨hsr, rfl, rfl⟩⟩

/-- Between runs the configuration is free, but for the range of `TOL` (R52, R80). -/
theorem inv_reconfigured (hinv : s.Inv) (hphase : s.phase.betweenRuns = true) (ht : s.Reconfigured t) : t.Inv := by
  obtain ⟨_, _, _, _, _, _, htol, rfl⟩ := ht
  obtain ⟨htol', hzs, hzs', hos, hos', herr, hzero, _⟩ := hinv.control
  have hnotRun : ¬ (s.phase = .armed ∨ s.phase = .running) := by
    rw [← not_betweenRuns_iff, hphase]
    decide
  exact ⟨⟨htol htol', hzs, hzs', hos, hos', herr, hzero, fun h => absurd h hnotRun⟩, hinv.clear, hinv.accumulator,
    fun h => absurd (.inr h) hnotRun, hinv.edges, hinv.starts⟩

/-- The end of a run (R112). -/
theorem inv_stopped (hinv : s.Inv) (hphase : s.phase = .armed ∨ s.phase = .running) :
    State.Inv { s with phase := .stopped } := by
  obtain ⟨htol, hzs, hzs', hos, hos', herr, _, _⟩ := hinv.control
  have herr' : s.err ≠ 1 := by
    rw [Ne, herr]
    rcases hphase with h | h <;> simp [h]
  exact ⟨⟨htol, hzs, hzs', hos, hos', iff_of_false herr' (by simp), by simp, by simp⟩, by simp, hinv.accumulator,
    by simp, by simp, hinv.starts⟩

/-- The first report of a run (R102). -/
theorem inv_initRun (hinv : s.Inv) (hphase : s.phase = .armed) (now : Word) (lvl : Bit) : (s.initRun now lvl).Inv := by
  obtain ⟨htol, hzs, hzs', hos, hos', herr, _, hrun⟩ := hinv.control
  obtain ⟨_, _, _, _, _, _, _, _, hnib, hcount, _, hword, hwordCount, _, _⟩ := hinv.clear (.inr (.inl hphase))
  refine ⟨⟨htol, hzs, hzs', hos, hos', ?_, by simp, fun _ => hrun (.inl hphase)⟩, by simp, ?_, fun _ => ?_, fun _ => ?_,
    BitVec.le_refl now⟩
  · rw [State.initRun_err, herr, hphase]
    simp
  · simp [State.AccumulatorInv, hnib, hcount, hword, hwordCount]
  · simp [State.BitOrderInv, hnib, hcount, hword, hwordCount]
  · simp [State.EdgeInv]

end

section

variable {s : State} (hinv : s.Inv) (hphase : s.phase = .running)

include hphase in
theorem not_clear_phase_of_running {P : Prop} (h : s.phase = .idle ∨ s.phase = .armed ∨ s.phase = .error) : P := by
  simp [hphase] at h

include hinv hphase

/-- In RUNNING the accumulators are all that an update of the accumulators has to answer for. -/
theorem inv_of_sameButAccumulator {t : State} (hsame : s.SameButAccumulator t) (hfit : t.CountsFit)
    (horder : t.BitOrderInv) (hword : t.wordStart ≤ t.nibStart) (hnib : t.nibStart ≤ s.lastpos) : t.Inv := by
  have hphase' : t.phase = .running := (hsame.field State.phase).trans hphase
  have hlast : t.lastpos = s.lastpos := hsame.field State.lastpos
  exact ⟨(hsame.field State.ControlInv).mpr hinv.control, not_clear_phase_of_running hphase',
    ⟨hfit.counts, hfit.nibble, hfit.word, hword⟩, fun _ => horder,
    fun _ => (hsame.field State.EdgeInv).mpr (hinv.edges hphase), hlast ▸ hnib⟩

theorem inv_emit (kind : EventKind) (a b : Word) (n : Nat) : (s.emit kind a b n).Inv :=
  inv_of_sameButAccumulator hinv hphase rfl ⟨hinv.countsFit.counts, hinv.countsFit.nibble, hinv.countsFit.word⟩
    (hinv.bitOrder hphase) hinv.wordStart_le_nibStart hinv.starts

/-- FALL's writes: the edge before was the rising one at `lastpos` (R25, R104). -/
theorem inv_recordFall (hold : s.oldpin = 1) {now : Word} (hnow : s.lastpos ≤ now) :
    (s.recordFall now (now - s.rising)).Inv := by
  obtain ⟨_, hrise, hfall, hlast, _, hlow⟩ := (hinv.edges hphase).1 hold
  have hrising : s.rising ≤ now := hlast ▸ hnow
  refine ⟨hinv.control, not_clear_phase_of_running (s := s) hphase, hinv.accumulator, hinv.bitOrder, fun _ => ?_,
    BitVec.le_trans hinv.starts hnow⟩
  exact ⟨fun h => absurd h (by simp), fun _ => ⟨hrise, hfall, hrising, rfl, BitVec.toNat_sub_of_le hrising, hlow⟩⟩

/-- RISE's writes: the edge before was the falling one at `lastpos` (R25, R105). -/
theorem inv_recordRise (hold : s.oldpin = 0) {now : Word} (hnow : s.lastpos ≤ now) :
    (s.recordRise now (now - s.falling)).Inv := by
  obtain ⟨_, hfall, hrise, hlast, hhigh, _⟩ := (hinv.edges hphase).2 hold
  have hfalling : s.falling ≤ now := hlast ▸ hnow
  refine ⟨hinv.control, not_clear_phase_of_running (s := s) hphase, hinv.accumulator, hinv.bitOrder, fun _ => ?_,
    BitVec.le_trans hinv.starts hnow⟩
  exact ⟨fun _ => ⟨hfall, hrise, hfalling, rfl, hhigh, BitVec.toNat_sub_of_le hfalling⟩, fun h => absurd h (by simp)⟩

/-- ACC_RESET at the last edge (R145). -/
theorem inv_accReset {now : Word} (hnow : s.lastpos = now) : (s.accReset now).Inv :=
  inv_of_sameButAccumulator hinv hphase rfl ⟨rfl, Nat.one_pos, Nat.one_pos⟩ (by simp [State.BitOrderInv])
    (BitVec.le_refl now) (hnow ▸ BitVec.le_refl _)

/-- PUSH_BIT at the last edge (R140). -/
theorem inv_pushed (b : Bit) {now : Word} (hnow : s.lastpos = now) : (s.pushed b now).Inv := by
  refine inv_of_sameButAccumulator hinv hphase (sameButAccumulator_pushed s b now)
    (countsFit_pushed hinv.countsFit b now) (bitOrderInv_pushed hinv.countsFit (hinv.bitOrder hphase) b now) ?_ ?_
  · rw [pushed_wordStart]
    rcases pushed_nibStart_cases s b now with h | h <;> rw [h]
    · exact hinv.wordStart_le_nibStart
    · exact hnow ▸ hinv.wordStart_le_lastpos
  · rcases pushed_nibStart_cases s b now with h | h <;> rw [h]
    · exact hinv.starts
    · exact hnow ▸ BitVec.le_refl _

/-- CLASSIFY_HIGH after FALL has recorded its edge (R125). -/
theorem inv_classifyHigh {now : Word} (hnow : s.lastpos = now) : (s.classifyHigh now).Inv := by
  rcases classifyHigh_cases s now with ⟨_, h⟩ | ⟨_, h⟩ | ⟨_, h⟩ <;> rw [h]
  · exact hinv
  · exact inv_accReset (inv_emit hinv hphase _ _ _ _) hphase hnow
  · exact inv_emit (inv_emit hinv hphase _ _ _ _) hphase _ _ _ _

/-- CLASSIFY_LOW after RISE has recorded its edge (R120). -/
theorem inv_classifyLow {t : State} {now : Word} (hnow : s.lastpos = now)
    (h : s.classifyLow Config.normative now = .next t) : t.Inv := by
  rcases classifyLow_next_cases h with rfl | ⟨b, rfl⟩
  · exact hinv
  · exact inv_pushed (inv_emit hinv hphase _ _ _ _) hphase b hnow

end

section

variable {s t : State}

/-- An `edge` keeps the invariant (R100). -/
theorem inv_edge {index : Word} {level : Bit} (hinv : s.Inv) (h : exec (.edge index level) s = .next t) : t.Inv := by
  rcases exec_edge_next_cases h with ⟨hphase, rfl⟩ | ⟨_, rfl⟩ | ⟨hphase, hold, hindex, _, rfl⟩ |
    ⟨hphase, hold, hindex, _, hlow⟩
  · exact inv_initRun hinv hphase index _
  · exact hinv
  · exact inv_classifyHigh (inv_recordFall hinv hphase hold hindex) hphase rfl
  · exact inv_classifyLow (inv_recordRise hinv hphase hold hindex) hphase rfl hlow

/-- A `start` keeps the invariant (R81). -/
theorem inv_start (hinv : s.Inv) (h : exec .start s = .next t) : t.Inv := by
  rcases start_cases s with ⟨_, h2⟩ | ⟨_, _, h2⟩ | ⟨_, hsr, h2⟩ <;> rw [h2] at h <;> cases h
  · exact hinv
  · exact inv_raiseConfigurationError hinv
  · exact inv_arm hinv hsr

/-- An `eos` keeps the invariant (R112). -/
theorem inv_eos (hinv : s.Inv) (h : exec .eos s = .next t) : t.Inv := by
  rw [exec_eos] at h
  rcases endRun_cases s with ⟨hphase, h2⟩ | ⟨_, _, h2⟩ <;> rw [h2] at h <;> cases h
  · exact inv_stopped hinv hphase
  · exact hinv

/-- Every stimulus a host may send keeps the invariant. -/
theorem inv_exec {i : Instr} (hsend : i.Sendable) (hinv : s.Inv) (h : exec i s = .next t) : t.Inv := by
  have hstimulus := hsend.isStimulus
  cases i
  case cfgwPol | cfgwEnd | cfgwZt | cfgwOt | cfgwTol | cfgwSr =>
    rcases exec_cfgw_next_cases rfl h with ⟨_, rfl⟩ | ⟨hphase, ht⟩
    · exact hinv
    · exact inv_reconfigured hinv hphase ht
  case start => exact inv_start hinv h
  case edge => exact inv_edge hinv h
  case eos => exact inv_eos hinv h
  case thresh | init | rise | fall | classifyLow | classifyHigh | pushBit | accReset | emitWord => cases hstimulus

end

/-- Settles O11: a step waits, resets, or runs a stimulus a host may send. -/
theorem stepKeepsInv : Obligations.StepKeepsInv := by
  intro s t hinv h
  rcases step_next_cases h with ⟨_, rfl⟩ | ⟨rest, _, rfl⟩ | ⟨w, rest, i, _, hdec, hexec⟩
  · exact hinv
  · exact inv_withInbox inv_reset rest
  · exact inv_exec (sendable_of_decode_ok hdec) (inv_withInbox hinv rest) hexec

end Sys2Proof.Machine
end

section
/-! PROOFS. The event stream (20_memory.md R50, 30_encoding.md R66): it is in order at reset, and each update of the
state keeps it so. -/

namespace Sys2Proof.Machine

section

variable {s t : State}

theorem streamInv_of_out_nil (hout : t.out = []) : t.StreamInv := by simp [State.StreamInv, hout]

end

/-- Settles O10: at reset no run state is set and no event was emitted. -/
theorem resetInv : Obligations.ResetInv := ⟨inv_reset, streamInv_of_out_nil rfl⟩

section

variable {s t : State}

/-- Without a new event the order lasts as long as `lastpos` and the starts of the next events do not go back. -/
theorem streamInv_of_out_eq (hstream : s.StreamInv) (hout : t.out = s.out) (hlast : s.lastpos ≤ t.lastpos)
    (hbound : ∀ kind, s.startBound kind ≤ t.startBound kind) : t.StreamInv := by
  obtain ⟨hpairs, hevents⟩ := hstream
  rw [State.StreamInv, hout]
  refine ⟨hpairs, fun e he => ?_⟩
  obtain ⟨hspan, hend, hstart, hpayload⟩ := hevents e he
  exact ⟨hspan, BitVec.le_trans hend hlast, BitVec.le_trans hstart (hbound e.kind), hpayload⟩

/-- An event from the start that its kind is due to the last edge is in order after all events before it (R50). -/
theorem streamInv_emit (hstream : s.StreamInv) {kind : EventKind} {a b : Word} {n : Nat}
    (hstart : a = s.startBound kind) (hend : b = s.lastpos) (hspan : a ≤ b)
    (hpayload : Event.payloadInRange ⟨kind, a, b, n⟩ = true) : (s.emit kind a b n).StreamInv := by
  obtain ⟨hpairs, hevents⟩ := hstream
  have hafter : ∀ e ∈ s.out, e.endSample ≤ b ∧ (e.kind = kind → e.startSample ≤ a) := by
    intro e he
    obtain ⟨_, hend', hstart', _⟩ := hevents e he
    exact ⟨hend ▸ hend', fun hkind => hstart ▸ hkind ▸ hstart'⟩
  rw [State.StreamInv, State.emit_out, List.pairwise_append]
  refine ⟨⟨hpairs, List.pairwise_singleton _ _, fun e he e' he' => ?_⟩, fun e he => ?_⟩
  · obtain rfl := List.mem_singleton.mp he'
    exact hafter e he
  · rcases List.mem_append.mp he with hold | hnew
    · exact hevents e hold
    · obtain rfl := List.mem_singleton.mp hnew
      exact ⟨hspan, hend ▸ BitVec.le_refl _, hstart ▸ BitVec.le_refl _, hpayload⟩

/-- FALL's writes leave the starts of the next events (R104). -/
theorem streamInv_recordFall (hstream : s.StreamInv) {now : Word} (hnow : s.lastpos ≤ now) (high : Word) :
    (s.recordFall now high).StreamInv :=
  streamInv_of_out_eq hstream rfl hnow fun kind => by cases kind <;> exact BitVec.le_refl _

/-- RISE moves the start of the next Bit to the rising edge before and the start of the next Leader to this one
(R105). -/
theorem streamInv_recordRise (hinv : s.Inv) (hphase : s.phase = .running) (hold : s.oldpin = 0)
    (hstream : s.StreamInv) {now : Word} (hnow : s.lastpos ≤ now) (low : Word) : (s.recordRise now low).StreamInv := by
  obtain ⟨hfall, hrise, hgap, hlast, _⟩ := (hinv.edges hphase).2 hold
  refine streamInv_of_out_eq hstream rfl hnow fun kind => ?_
  cases kind
  case bit => exact BitVec.le_trans hfall hrise
  case leader => exact BitVec.le_trans hgap (hlast ▸ hnow)
  case hex | word => exact BitVec.le_refl _

/-- ACC_RESET moves the starts of the next Hex and of the next Word to the last edge (R145). -/
theorem streamInv_accReset (hinv : s.Inv) (hstream : s.StreamInv) {now : Word} (hnow : s.lastpos = now) :
    (s.accReset now).StreamInv := by
  refine streamInv_of_out_eq hstream rfl (BitVec.le_refl _) fun kind => ?_
  cases kind
  case bit | leader => exact BitVec.le_refl _
  case hex => exact hnow ▸ hinv.starts
  case word => exact hnow ▸ hinv.wordStart_le_lastpos

/-- The Word event spans from the start of the word to the last edge (R146). -/
theorem streamInv_emitWord (hinv : s.Inv) (hstream : s.StreamInv) {now : Word} (hnow : s.lastpos = now) :
    (s.emitWord now).StreamInv :=
  streamInv_emit hstream rfl hnow.symm (hnow ▸ hinv.wordStart_le_lastpos) rfl

theorem streamInv_shiftIn (hstream : s.StreamInv) (b : Bit) : (s.shiftIn b).StreamInv :=
  streamInv_of_out_eq hstream rfl (BitVec.le_refl _) fun kind => by cases kind <;> exact BitVec.le_refl _

/-- The Hex event spans from the start of the nibble to the last edge, where the next one starts (R144, R149). -/
theorem streamInv_completeNibble (hnib : s.nibStart ≤ s.lastpos) (hstream : s.StreamInv) {now : Word}
    (hnow : s.lastpos = now) : (s.completeNibble now).StreamInv := by
  have hemit : (s.emit .hex s.nibStart now s.nibValue.toNat).StreamInv :=
    streamInv_emit hstream rfl hnow.symm (hnow ▸ hnib) (decide_eq_true s.nibValue.isLt)
  refine streamInv_of_out_eq hemit rfl (BitVec.le_refl _) fun kind => ?_
  cases kind
  case bit | leader | word => exact BitVec.le_refl _
  case hex => exact hnow ▸ hnib

theorem streamInv_pushed (hinv : s.Inv) (hstream : s.StreamInv) (b : Bit) {now : Word} (hnow : s.lastpos = now) :
    (s.pushed b now).StreamInv := by
  rcases pushed_cases s b now with ⟨_, h⟩ | ⟨_, h⟩ <;> rw [h]
  · exact streamInv_shiftIn hstream b
  · exact streamInv_completeNibble (s := s.shiftIn b) hinv.starts (streamInv_shiftIn hstream b) hnow

/-- The Leader event of a pulse spans the pulse (R129). -/
theorem streamInv_emit_leader (hstream : s.StreamInv) {now : Word} (hnow : s.lastpos = now) (hrising : s.rising ≤ now)
    {n : Nat} (hn : n ≤ 1) : (s.emit .leader s.rising now n).StreamInv :=
  streamInv_emit hstream rfl hnow.symm hrising (decide_eq_true hn)

/-- CLASSIFY_HIGH after FALL has recorded its edge (R125). -/
theorem streamInv_classifyHigh (hinv : s.Inv) (hphase : s.phase = .running) (hstream : s.StreamInv) {now : Word}
    (hnow : s.lastpos = now) (hrising : s.rising ≤ now) : (s.classifyHigh now).StreamInv := by
  rcases classifyHigh_cases s now with ⟨_, h⟩ | ⟨_, h⟩ | ⟨_, h⟩ <;> rw [h]
  · exact hstream
  · exact streamInv_accReset (inv_emit hinv hphase _ _ _ _)
      (streamInv_emit_leader hstream hnow hrising (Nat.zero_le 1)) hnow
  · exact streamInv_emitWord (inv_emit hinv hphase _ _ _ _) (streamInv_emit_leader hstream hnow hrising le_rfl) hnow

/-- CLASSIFY_LOW after RISE has recorded its edge: the Bit event spans from the rising edge before to it (R120,
R124). -/
theorem streamInv_classifyLow (hinv : s.Inv) (hphase : s.phase = .running) (hstream : s.StreamInv) {now : Word}
    (hnow : s.lastpos = now) (hrising : s.rising = now) (hlastrising : s.lastrising ≤ s.rising)
    (h : s.classifyLow Config.normative now = .next t) : t.StreamInv := by
  rcases classifyLow_next_cases h with rfl | ⟨b, rfl⟩
  · exact hstream
  · have hemit : (s.emit .bit s.lastrising s.rising b.toNat).StreamInv :=
      streamInv_emit hstream rfl (hrising.trans hnow.symm) hlastrising (decide_eq_true (bit_toNat_le_one b))
    exact streamInv_pushed (inv_emit hinv hphase _ _ _ _) hemit b hnow

/-- An `edge` keeps the order of the stream (R100). -/
theorem streamInv_edge {index : Word} {level : Bit} (hinv : s.Inv) (hstream : s.StreamInv)
    (h : exec (.edge index level) s = .next t) : t.StreamInv := by
  rcases exec_edge_next_cases h with ⟨hphase, rfl⟩ | ⟨_, rfl⟩ | ⟨hphase, hold, hindex, hrising, rfl⟩ |
    ⟨hphase, hold, hindex, hfalling, hlow⟩
  · obtain ⟨_, _, _, _, _, _, _, _, _, _, _, _, _, _, hout⟩ := hinv.clear (.inr (.inl hphase))
    exact streamInv_of_out_nil hout
  · exact hstream
  · exact streamInv_classifyHigh (inv_recordFall hinv hphase hold hindex) hphase (streamInv_recordFall hstream hindex _)
      rfl hrising
  · obtain ⟨_, _, hgap, _⟩ := (hinv.edges hphase).2 hold
    exact streamInv_classifyLow (inv_recordRise hinv hphase hold hindex) hphase
      (streamInv_recordRise hinv hphase hold hstream hindex _) rfl rfl (BitVec.le_trans hgap hfalling) hlow

/-- Any other stimulus leaves the run state, or is the `start` that empties the stream (R80, R81, R112). -/
theorem streamInv_exec {i : Instr} (hsend : i.Sendable) (hinv : s.Inv) (hstream : s.StreamInv)
    (h : exec i s = .next t) : t.StreamInv := by
  by_cases hedge : ∃ index level, i = .edge index level
  · obtain ⟨index, level, rfl⟩ := hedge
    exact streamInv_edge hinv hstream h
  · have hnotEdge : ∀ index level, i ≠ .edge index level := fun index level hi => hedge ⟨index, level, hi⟩
    rcases sameBut_exec_or_cleared hsend.isStimulus hnotEdge h with hsame | ⟨_, hout⟩
    · exact (hsame.field State.StreamInv).mpr hstream
    · exact streamInv_of_out_nil hout

end

/-- Settles O12: a step waits, empties the stream by a reset, or runs a stimulus a host may send. -/
theorem stepKeepsStream : Obligations.StepKeepsStream := by
  intro s t hinv hstream h
  rcases step_next_cases h with ⟨_, rfl⟩ | ⟨rest, _, rfl⟩ | ⟨w, rest, i, _, hdec, hexec⟩
  · exact hstream
  · exact streamInv_of_out_nil rfl
  · exact streamInv_exec (s := s.withInbox rest) (sendable_of_decode_ok hdec) (inv_withInbox hinv rest) hstream hexec

end Sys2Proof.Machine
end

section
/-! PROOFS. The timestamps of a run (10_state.md R34 (c)) and the phase table (60_exceptions.md R174). -/

namespace Sys2Proof.Machine

/-- No timestamp is below the sample index `first`. -/
def State.TimestampsFrom (first : Word) (s : State) : Prop :=
  first ≤ s.lastpos ∧ first ≤ s.falling ∧ first ≤ s.lastfalling ∧ first ≤ s.rising ∧ first ≤ s.lastrising

section

variable {s t : State} {first : Word}

/-- FALL and RISE shift timestamps and record an index that is not below `lastpos` (R104, R105, R108). -/
theorem timestampsFrom_edge {index : Word} {level : Bit} (hfrom : s.TimestampsFrom first) (hphase : s.phase = .running)
    (h : exec (.edge index level) s = .next t) : t.TimestampsFrom first := by
  obtain ⟨hlast, hfalling, hlastfalling, hrising, hlastrising⟩ := id hfrom
  rcases exec_edge_next_cases h with ⟨harmed, _⟩ | ⟨_, rfl⟩ | ⟨_, _, hindex, _, rfl⟩ | ⟨_, _, hindex, _, hlow⟩
  · simp [hphase] at harmed
  · exact hfrom
  · have hnow := BitVec.le_trans hlast hindex
    exact ((sameButAccumulator_classifyHigh _ index).field (State.TimestampsFrom first)).mpr
      ⟨hnow, hnow, hfalling, hrising, hlastrising⟩
  · have hnow := BitVec.le_trans hlast hindex
    exact ((sameButAccumulator_classifyLow hlow).field (State.TimestampsFrom first)).mpr
      ⟨hnow, hfalling, hlastfalling, hnow, hrising⟩

end

/-- Settles O13: INIT gives all five the first index, and in a run only a report writes them. -/
theorem timestampsSinceFirst : Obligations.TimestampsSinceFirst := by
  refine ⟨fun s first level hphase => ⟨_, exec_edge_of_armed hphase first level, rfl, rfl, rfl, rfl, rfl⟩, ?_⟩
  intro s t first _ hphase hphase' h hfrom
  rcases step_next_cases h with ⟨_, rfl⟩ | ⟨rest, _, rfl⟩ | ⟨w, rest, i, _, hdec, hexec⟩
  · exact hfrom
  · simp [State.reset] at hphase'
  · have hrun : (s.withInbox rest).phase.betweenRuns = false := not_betweenRuns_iff.mpr (.inr hphase)
    rcases exec_next_of_run (sendable_of_decode_ok hdec) hrun hexec with rfl | rfl | ⟨index, level, hedge⟩
    · exact hfrom
    · simp at hphase'
    · exact timestampsFrom_edge (s := s.withInbox rest) hfrom hphase hedge

section

variable {s t : State}

/-- An `edge` takes ARMED to RUNNING and no other phase anywhere (R100). -/
theorem phase_of_edge {index : Word} {level : Bit} (h : exec (.edge index level) s = .next t) :
    t.phase = if s.phase = .armed then .running else s.phase := by
  rcases exec_edge_next_cases h with ⟨hphase, rfl⟩ | ⟨hphase, rfl⟩ | ⟨hphase, _, _, _, rfl⟩ | ⟨hphase, _, _, _, hlow⟩
  · rw [if_pos hphase]
    rfl
  · rw [if_neg hphase]
  · rw [if_neg (by simp [hphase])]
    exact (sameButAccumulator_classifyHigh _ index).field State.phase
  · rw [if_neg (by simp [hphase])]
    exact (sameButAccumulator_classifyLow hlow).field State.phase

/-- A `start` between runs arms the core or takes it to ERROR (R81, R162). -/
theorem phase_of_start (h : exec .start s = .next t) :
    t.phase = if s.phase.betweenRuns then (if s.sr = 0 then .error else .armed) else s.phase := by
  rcases start_cases s with ⟨hphase, h2⟩ | ⟨hphase, hsr, h2⟩ | ⟨hphase, hsr, h2⟩ <;> rw [h2] at h <;> cases h
  · simp [hphase]
  · simp [hphase, hsr]
  · rw [if_pos hphase, if_neg hsr]
    rfl

theorem phase_of_eos (h : exec .eos s = .next t) :
    t.phase = if s.phase = .armed ∨ s.phase = .running then .stopped else s.phase := by
  rcases exec_eos_next_cases h with ⟨hphase, rfl⟩ | ⟨harmed, hrunning, rfl⟩
  · rw [if_pos hphase]
  · rw [if_neg (not_or.mpr ⟨harmed, hrunning⟩)]

/-- The phase after a stimulus is the phase table's (R174). -/
theorem phase_of_exec {i : Instr} (hsend : i.Sendable) (h : exec i s = .next t) :
    t.phase = phaseAfter i s.sr s.phase := by
  have hstimulus := hsend.isStimulus
  cases i
  case cfgwPol | cfgwEnd | cfgwZt | cfgwOt | cfgwTol | cfgwSr =>
    rcases exec_cfgw_next_cases rfl h with ⟨_, rfl⟩ | ⟨_, _, _, _, _, _, _, _, rfl⟩ <;> rfl
  case start => exact phase_of_start h
  case edge => exact phase_of_edge h
  case eos => exact phase_of_eos h
  case thresh | init | rise | fall | classifyLow | classifyHigh | pushBit | accReset | emitWord => cases hstimulus

end

/-- Settles O15: a step waits, resets, or runs a stimulus with the table's phase. -/
theorem phaseTable : Obligations.PhaseTable := by
  intro s t h
  rcases step_next_cases h with ⟨hin, rfl⟩ | ⟨rest, hin, rfl⟩ | ⟨w, rest, i, hin, hdec, hexec⟩
  · exact .inl ⟨hin, rfl⟩
  · exact .inr (.inl ⟨rest, hin, rfl⟩)
  · exact .inr (.inr ⟨w, rest, i, hin, hdec, phase_of_exec (s := s.withInbox rest) (sendable_of_decode_ok hdec) hexec⟩)

/-- A `cfgw` with its value in range is discarded in a run (R80). -/
theorem configure_of_run {s written : State} {inRange : Bool} (hrange : inRange = true)
    (hphase : s.phase.betweenRuns = false) : s.configure inRange written = .next s := by
  rw [State.configure, if_pos hrange, hphase]
  rfl

/-- A `start` is discarded in a run (R81). -/
theorem exec_start_of_run {s : State} (hphase : s.phase.betweenRuns = false) : exec .start s = .next s := by
  rcases start_cases s with ⟨_, h⟩ | ⟨h, _⟩ | ⟨h, _⟩
  · exact h
  · simp [hphase] at h
  · simp [hphase] at h

/-- Settles O16: the cells are those of `cfgw` and `start` in a run and of `edge` and `eos` between runs. -/
theorem discardCells : Obligations.DiscardCells := by
  intro i s hrange hcell
  have hrun (h : (s.phase == .armed || s.phase == .running) = true) : s.phase.betweenRuns = false := by
    simpa [not_betweenRuns_iff] using h
  have hbetween (h : (s.phase == .idle || s.phase == .stopped || s.phase == .error) = true) :
      s.phase.betweenRuns = true := by
    simpa [betweenRuns_iff, or_assoc] using h
  cases i
  case cfgwPol | cfgwEnd | cfgwZt | cfgwOt | cfgwTol | cfgwSr => exact configure_of_run hrange (hrun hcell)
  case start => exact exec_start_of_run (hrun hcell)
  case edge index level => exact exec_edge_of_betweenRuns (hbetween hcell) index level
  case eos => exact exec_eos_of_betweenRuns (hbetween hcell)
  case thresh | init | rise | fall | classifyLow | classifyHigh | pushBit | accReset | emitWord => cases hcell

end Sys2Proof.Machine
end

section
/-! PROOFS. The events of one report (20_memory.md R50 (a), 41_edge_tracker.md R100), and the register no rule reads,
`lastfalling` (10_state.md R24). -/

namespace Sys2Proof.Machine

/-- Settles O20: a falling edge by its pulse, a rising edge by its bit and by whether the bit completes a nibble. -/
theorem eventsOfAnEdge : Obligations.EventsOfAnEdge := by
  intro s t index level h
  rcases edge_next_cases h with hout | ⟨_, _, _, _, rfl⟩ | ⟨_, _, _, _, b, _, rfl⟩
  · exact ⟨[], by simp [hout], by simp, .inl rfl⟩
  · rcases classifyHigh_cases (s.recordFall index (index - s.rising)) index with ⟨_, h⟩ | ⟨_, h⟩ | ⟨_, h⟩ <;> rw [h]
    · exact ⟨[], by simp, by simp, .inl rfl⟩
    · exact ⟨[⟨.leader, s.rising, index, 0⟩], by simp, by simp, .inr (.inr (.inr (.inl rfl)))⟩
    · exact ⟨[⟨.leader, s.rising, index, 1⟩, ⟨.word, s.wordStart, index, s.wordValue⟩], by simp, by simp,
        .inr (.inr (.inr (.inr rfl)))⟩
  · rcases pushed_cases ((s.recordRise index (index - s.falling)).emit .bit s.rising index b.toNat) b index with
      ⟨_, h⟩ | ⟨_, h⟩ <;> rw [h]
    · exact ⟨[⟨.bit, s.rising, index, b.toNat⟩], by simp, by simp, .inr (.inl rfl)⟩
    · exact ⟨[⟨.bit, s.rising, index, b.toNat⟩, ⟨.hex, s.nibStart, index, _⟩],
        by rw [State.completeNibble_out, State.shiftIn_out, State.emit_out, List.append_assoc]; rfl, by simp,
        .inr (.inr (.inl rfl))⟩

/-- The state with another value in `lastfalling`. -/
def State.withLastfalling (s : State) (x : Word) : State := { s with lastfalling := x }

section

variable (s : State) (x : Word)

@[simp] theorem State.withLastfalling_pol : (s.withLastfalling x).pol = s.pol := rfl
@[simp] theorem State.withLastfalling_zs : (s.withLastfalling x).zs = s.zs := rfl
@[simp] theorem State.withLastfalling_os : (s.withLastfalling x).os = s.os := rfl
@[simp] theorem State.withLastfalling_phase : (s.withLastfalling x).phase = s.phase := rfl
@[simp] theorem State.withLastfalling_oldpin : (s.withLastfalling x).oldpin = s.oldpin := rfl
@[simp] theorem State.withLastfalling_lastpos : (s.withLastfalling x).lastpos = s.lastpos := rfl
@[simp] theorem State.withLastfalling_falling : (s.withLastfalling x).falling = s.falling := rfl
@[simp] theorem State.withLastfalling_highwidth : (s.withLastfalling x).highwidth = s.highwidth := rfl
@[simp] theorem State.withLastfalling_lowwidth : (s.withLastfalling x).lowwidth = s.lowwidth := rfl
@[simp] theorem State.withLastfalling_nibCount : (s.withLastfalling x).nibCount = s.nibCount := rfl

end

/-- If `r` is a next state, `r'` is that state but for `lastfalling`. -/
def SameButLastfalling (r r' : Result) : Prop := ∀ t, r = .next t → ∃ y, r' = .next (t.withLastfalling y)

section

variable (s : State) (x : Word)

theorem sameButLastfalling_next : SameButLastfalling (.next s) (.next (s.withLastfalling x)) := by
  rintro t ⟨⟩
  exact ⟨x, rfl⟩

theorem sameButLastfalling_refl (r : Result) : SameButLastfalling r r := fun t ht => ⟨t.lastfalling, ht⟩

theorem configure_withLastfalling (inRange : Bool) (written : State) :
    SameButLastfalling (s.configure inRange written)
      ((s.withLastfalling x).configure inRange (written.withLastfalling x)) := by
  rw [State.configure, State.configure, State.withLastfalling_phase]
  split
  · split
    · exact sameButLastfalling_next written x
    · exact sameButLastfalling_next s x
  · exact sameButLastfalling_refl _

/-- A `start` that is accepted clears the register (R81). -/
theorem start_withLastfalling : SameButLastfalling (exec .start s) (exec .start (s.withLastfalling x)) := by
  rcases start_cases s with ⟨hphase, h⟩ | ⟨hphase, hsr, h⟩ | ⟨hphase, hsr, h⟩ <;> rw [h]
  · rw [exec_start_of_run (s := s.withLastfalling x) hphase]
    exact sameButLastfalling_next s x
  · rw [exec_start_of_sr_eq_zero (s := s.withLastfalling x) hphase hsr]
    exact sameButLastfalling_refl _
  · rw [exec_start_of_sr_ne_zero (s := s.withLastfalling x) hphase hsr]
    exact sameButLastfalling_refl _

theorem pushed_withLastfalling (b : Bit) (now : Word) :
    (s.withLastfalling x).pushed b now = (s.pushed b now).withLastfalling x := by
  rw [State.pushed, State.pushed, State.withLastfalling_nibCount]
  split <;> rfl

theorem pushBit_withLastfalling (b : Bit) (now : Word) :
    SameButLastfalling (s.pushBit Config.normative b now) ((s.withLastfalling x).pushBit Config.normative b now) := by
  rw [pushBit_normative, pushBit_normative, pushed_withLastfalling]
  exact sameButLastfalling_next _ x

theorem classifyLow_withLastfalling (now : Word) :
    SameButLastfalling (s.classifyLow Config.normative now)
      ((s.withLastfalling x).classifyLow Config.normative now) := by
  rw [State.classifyLow, State.classifyLow, State.withLastfalling_zs, State.withLastfalling_os,
    State.withLastfalling_lowwidth, State.withLastfalling_highwidth]
  split
  case h_1 b _ => exact pushBit_withLastfalling (s.emit .bit s.lastrising s.rising b.toNat) x b now
  case h_2 => exact sameButLastfalling_next s x

theorem classifyHigh_withLastfalling (now : Word) :
    (s.withLastfalling x).classifyHigh now = (s.classifyHigh now).withLastfalling x := by
  rw [State.classifyHigh, State.classifyHigh, State.withLastfalling_zs, State.withLastfalling_os,
    State.withLastfalling_lowwidth, State.withLastfalling_highwidth]
  split <;> rfl

/-- FALL writes the register from `falling` (R104). -/
theorem fall_withLastfalling (now : Word) : (s.withLastfalling x).fall now = s.fall now := rfl

theorem rise_withLastfalling (now : Word) :
    SameButLastfalling (s.rise Config.normative now) ((s.withLastfalling x).rise Config.normative now) := by
  rw [State.rise, State.rise, State.withLastfalling_falling]
  split
  case h_1 low _ => exact classifyLow_withLastfalling (s.recordRise now low) x now
  case h_2 => exact sameButLastfalling_refl _

theorem report_withLastfalling (index : Word) (lvl : Bit) :
    SameButLastfalling (s.report Config.normative index lvl)
      ((s.withLastfalling x).report Config.normative index lvl) := by
  rw [State.report, State.report, State.withLastfalling_oldpin, State.withLastfalling_lastpos, fall_withLastfalling]
  cases direction s.oldpin lvl with
  | unchanged => exact sameButLastfalling_next s x
  | falling => exact sameButLastfalling_refl _
  | rising =>
    dsimp only
    split
    · exact sameButLastfalling_refl _
    · exact rise_withLastfalling s x index

theorem edge_withLastfalling (index : Word) (level : Bit) :
    SameButLastfalling (exec (.edge index level) s) (exec (.edge index level) (s.withLastfalling x)) := by
  rw [exec_edge, exec_edge, State.edge, State.edge, State.withLastfalling_phase, State.withLastfalling_pol]
  cases s.phase with
  | armed => exact sameButLastfalling_refl _
  | running => exact report_withLastfalling s x index _
  | idle | stopped | error => exact sameButLastfalling_next s x

theorem eos_withLastfalling : SameButLastfalling (exec .eos s) (exec .eos (s.withLastfalling x)) := by
  rw [exec_eos, exec_eos, State.endRun, State.endRun, State.withLastfalling_phase]
  cases s.phase with
  | armed | running => exact sameButLastfalling_next { s with phase := .stopped } x
  | idle | stopped | error => exact sameButLastfalling_next s x

/-- No instruction reads the register (R24). -/
theorem exec_withLastfalling (i : Instr) : SameButLastfalling (exec i s) (exec i (s.withLastfalling x)) := by
  cases i
  case cfgwPol | cfgwEnd | cfgwTol => exact configure_withLastfalling s x _ _
  case cfgwZt v => exact configure_withLastfalling s x true { s with zt := v }
  case cfgwOt v => exact configure_withLastfalling s x true { s with ot := v }
  case cfgwSr v => exact configure_withLastfalling s x true { s with sr := v }
  case start => exact start_withLastfalling s x
  case edge index level => exact edge_withLastfalling s x index level
  case eos => exact eos_withLastfalling s x
  case thresh => exact sameButLastfalling_next _ x
  case init | fall => exact sameButLastfalling_refl _
  case rise now => exact rise_withLastfalling s x now
  case classifyLow now => exact classifyLow_withLastfalling s x now
  case classifyHigh now =>
    rw [exec_classifyHigh, exec_classifyHigh, classifyHigh_withLastfalling]
    exact sameButLastfalling_next _ x
  case pushBit b now => exact pushBit_withLastfalling s x b now
  case accReset now => exact sameButLastfalling_next (s.accReset now) x
  case emitWord now => exact sameButLastfalling_next (s.emitWord now) x

end

/-- Settles O22: every instruction alike in both states. -/
theorem lastfallingIsNeverRead : Obligations.LastfallingIsNeverRead :=
  fun i s t x h => exec_withLastfalling s x i t h

end Sys2Proof.Machine
end

section
/-! PROOFS. Pushing a list of bits keeps it whole, in either order (43_word_accumulator.md R141 to R145, R152). -/

namespace Sys2Proof.Machine

/-- Digits in the order in which they count up: the last pushed is the lowest in little order, the highest in big. -/
def inOrder (endian : Bit) (digits : List Nat) : List Nat := if endian = 0 then digits.reverse else digits

/-- The number of complete nibbles and of an unfinished one of `count` bits, which is the lowest in little order and the
highest in big. -/
def nibblesNumber (endian : Bit) (nibbles : List Nat) (count value : Nat) : Nat :=
  if endian = 0 then Nat.ofDigits 16 nibbles.reverse * 2 ^ count + value
  else Nat.ofDigits 16 nibbles + value * 16 ^ nibbles.length

/-- One bit more writes one digit more (R141, R142). -/
theorem pushWord_ofDigits (endian b : Bit) {digits : List Nat}
    (hfit : Nat.ofDigits 2 (inOrder endian digits) < 2 ^ digits.length) :
    pushWord endian b digits.length (Nat.ofDigits 2 (inOrder endian digits)) =
      Nat.ofDigits 2 (inOrder endian (digits ++ [b.toNat])) := by
  rcases bit_zero_or_one endian with rfl | rfl
  · rw [pushWord_little]
    simp [inOrder, Nat.ofDigits_cons, add_comm]
  · rw [pushWord_big _ _ _ hfit]
    simp [inOrder, Nat.ofDigits_append, mul_comm]

/-- A bit pushed into the word is pushed into its unfinished nibble (R152). -/
theorem pushWord_nibblesNumber (endian b : Bit) {nibbles : List Nat} {count value : Nat}
    (hvalue : value < 2 ^ count) (hfit : nibblesNumber endian nibbles count value < 2 ^ (4 * nibbles.length + count)) :
    pushWord endian b (4 * nibbles.length + count) (nibblesNumber endian nibbles count value) =
      nibblesNumber endian nibbles (count + 1) (pushWord endian b count value) := by
  rcases bit_zero_or_one endian with rfl | rfl
  · simp only [pushWord_little, nibblesNumber, if_true]
    ring
  · rw [pushWord_big _ _ _ hfit, pushWord_big _ _ _ hvalue]
    simp only [nibblesNumber, (by decide : ¬ (1 : Bit) = 0), if_false, pow_add, pow_mul]
    ring

/-- A nibble of four bits is a complete one (R144). -/
theorem nibblesNumber_complete (endian : Bit) (nibbles : List Nat) (value : Nat) :
    nibblesNumber endian nibbles 4 value = nibblesNumber endian (nibbles ++ [value]) 0 0 := by
  rcases bit_zero_or_one endian with rfl | rfl
  · simp only [nibblesNumber, if_true, List.reverse_append, List.reverse_singleton, List.singleton_append,
      Nat.ofDigits_cons]
    ring
  · simp [nibblesNumber, Nat.ofDigits_append, mul_comm]

/-- The nibble takes the bit as a number, and none is lost (R141, R142). -/
theorem pushNibble_toNat (endian b : Bit) {count : BitVec 2} {value : BitVec 4}
    (hvalue : value.toNat < 2 ^ count.toNat) :
    (pushNibble endian b count value).toNat = pushWord endian b count.toNat value.toNat := by
  have hlt : pushWord endian b count.toNat value.toNat < 2 ^ 4 :=
    (pushWord_lt endian b hvalue).trans_le (Nat.pow_le_pow_right Nat.two_pos count.isLt)
  rw [pushNibble_eq_ofNat_pushWord, BitVec.toNat_ofNat, Nat.mod_eq_of_lt hlt]

/-- After `bits` were pushed, which completed the nibbles of the events `hexes` after the events `base`. -/
structure State.HoldsBits (base : List Event) (bits : List (Bit × Word)) (hexes : List Event) (s : State) : Prop where
  /-- The counts and the sizes (10_state.md R34). -/
  fit : s.CountsFit
  /-- The Hex events are the only new ones. -/
  out : s.out = base ++ hexes
  /-- No bit is lost. -/
  count : s.wordCount = bits.length
  /-- The word is the number the bits write. -/
  word : s.wordValue = Nat.ofDigits 2 (inOrder s.endian (bits.map fun b => b.1.toNat))
  /-- Every fourth bit completes a nibble. -/
  hexCount : hexes.length = bits.length / 4
  /-- What was completed are nibbles. -/
  hex : ∀ e ∈ hexes, e.kind = .hex ∧ e.payload < 16
  /-- The word is its nibbles (R152). -/
  nibbles : s.wordValue =
    nibblesNumber s.endian (hexes.map (·.payload)) s.nibCount.toNat s.nibValue.toNat

theorem holdsBits_accReset (s : State) (now : Word) : (s.accReset now).HoldsBits s.out [] [] where
  fit := ⟨rfl, Nat.one_pos, Nat.one_pos⟩
  out := (List.append_nil _).symm
  count := rfl
  word := by simp [inOrder]
  hexCount := rfl
  hex := by simp
  nibbles := by simp [nibblesNumber]

section

variable {s : State} {base hexes : List Event} {bits : List (Bit × Word)}

/-- What the word becomes, as a number of bits (R141, R142). -/
theorem pushWord_word_of_holdsBits (h : s.HoldsBits base bits hexes) (b : Bit) (now : Word) :
    pushWord s.endian b s.wordCount s.wordValue =
      Nat.ofDigits 2 (inOrder s.endian ((bits ++ [(b, now)]).map fun b => b.1.toNat)) := by
  have hfit := h.fit.word
  rw [h.count, h.word] at hfit ⊢
  have hpush := pushWord_ofDigits s.endian b (digits := bits.map fun b => b.1.toNat) (by simpa using hfit)
  simpa using hpush

/-- What the word becomes, as a number of nibbles, before a fourth bit completes one (R152). -/
theorem pushWord_nibbles_of_holdsBits (h : s.HoldsBits base bits hexes) (b : Bit) :
    pushWord s.endian b s.wordCount s.wordValue =
      nibblesNumber s.endian (hexes.map (·.payload)) (s.nibCount.toNat + 1)
        (pushWord s.endian b s.nibCount.toNat s.nibValue.toNat) := by
  have hcount : s.wordCount = 4 * (hexes.map (·.payload)).length + s.nibCount.toNat := by
    rw [List.length_map, h.hexCount, h.fit.counts, ← h.count, Nat.div_add_mod]
  have hfit := h.fit.word
  rw [hcount, h.nibbles] at hfit ⊢
  exact pushWord_nibblesNumber s.endian b h.fit.nibble hfit

/-- PUSH_BIT takes one bit more, and on every fourth a nibble more (R140, R144). -/
theorem holdsBits_pushed (h : s.HoldsBits base bits hexes) (b : Bit) (now : Word) :
    ∃ hexes', (s.pushed b now).HoldsBits base (bits ++ [(b, now)]) hexes' := by
  have hfit := countsFit_pushed h.fit b now
  have hword := pushWord_word_of_holdsBits h b now
  have hnibbles := pushWord_nibbles_of_holdsBits h b
  rw [← pushNibble_toNat s.endian b h.fit.nibble] at hnibbles
  have hcounts := h.fit.counts
  rw [h.count] at hcounts
  rcases pushed_cases s b now with ⟨hne, hpushed⟩ | ⟨heq, hpushed⟩ <;> rw [hpushed] at hfit ⊢
  · obtain ⟨hsucc, hlt⟩ := nibCount_of_ne_three hne
    exact ⟨hexes, {
      fit := hfit
      out := h.out
      count := by simp [h.count]
      word := hword
      hexCount := by
        rw [h.hexCount, List.length_append, List.length_singleton]
        omega
      hex := h.hex
      nibbles := by
        rw [State.shiftIn_nibCount, hsucc]
        exact hnibbles }⟩
  · have hthree : s.nibCount.toNat = 3 := by rw [heq]; rfl
    rw [hthree] at hcounts hnibbles
    exact ⟨hexes ++ [⟨.hex, s.nibStart, now, (s.shiftIn b).nibValue.toNat⟩], {
      fit := hfit
      out := by
        rw [State.completeNibble_out, State.shiftIn_out, h.out, List.append_assoc]
        rfl
      count := by simp [h.count]
      word := hword
      hexCount := by
        rw [List.length_append, h.hexCount, List.length_append, List.length_singleton, List.length_singleton]
        omega
      hex := List.forall_mem_append.mpr ⟨h.hex, List.forall_mem_singleton.mpr ⟨rfl, (s.shiftIn b).nibValue.isLt⟩⟩
      nibbles := by
        rw [List.map_append, List.map_singleton]
        exact hnibbles.trans (nibblesNumber_complete s.endian _ _) }⟩

/-- Pushing a list of bits takes them all. -/
theorem exists_pushAll_holdsBits (h : s.HoldsBits base bits hexes) (more : List (Bit × Word)) :
    ∃ t hexes', pushAll more s = .next t ∧ t.endian = s.endian ∧ t.HoldsBits base (bits ++ more) hexes' := by
  induction more generalizing s bits hexes with
  | nil => exact ⟨s, hexes, rfl, rfl, by rwa [List.append_nil]⟩
  | cons bit rest ih =>
    obtain ⟨b, now⟩ := bit
    obtain ⟨hexes', hpushed⟩ := holdsBits_pushed h b now
    obtain ⟨t, hexes'', ht, hendian, hholds⟩ := ih hpushed
    have hsame : (s.pushed b now).endian = s.endian := (sameButAccumulator_pushed s b now).field State.endian
    exact ⟨t, hexes'', ht, hendian.trans hsame, by rwa [List.append_assoc] at hholds⟩

end

/-- Settles O54: the word the list makes, in little order. -/
theorem bitsMakeTheWordLittle : Obligations.BitsMakeTheWordLittle := by
  intro s now bits hlittle
  obtain ⟨t, hexes, ht, hendian, hholds⟩ := exists_pushAll_holdsBits (holdsBits_accReset s now) bits
  have hend : t.endian = 0 := hendian.trans hlittle
  refine ⟨_, t, hexes, exec_accReset s now, ht, hholds.out, hholds.count, ?_, hholds.hexCount, hholds.hex, ?_⟩
  · rw [hholds.word, hend]
    rfl
  · rw [hholds.nibbles, hend]
    rfl

/-- Settles O55: the word the list makes, in big order. -/
theorem bitsMakeTheWordBig : Obligations.BitsMakeTheWordBig := by
  intro s now bits hbig
  obtain ⟨t, hexes, ht, hendian, hholds⟩ := exists_pushAll_holdsBits (holdsBits_accReset s now) bits
  have hend : t.endian = 1 := hendian.trans hbig
  refine ⟨_, t, hexes, exec_accReset s now, ht, hholds.out, hholds.count, ?_, hholds.hexCount, hholds.hex, ?_⟩
  · rw [hholds.word, hend]
    rfl
  · have hnibbles := hholds.nibbles
    rw [hend, nibblesNumber, if_neg (by decide), List.length_map] at hnibbles
    exact hnibbles

end Sys2Proof.Machine
end
